-- ==== Sys2Proof/Word.lean ====
section
/-! DEFINITION. The bit-vector types of the mod11 CORE (R11, R12, and the parameter table of 00_scope). -/

namespace Sys2Proof

/-- A 32-bit word on the port (R70). -/
abbrev Word := BitVec 32

/-- A 4-bit register value (10_state, register map, width 4). -/
abbrev Nibble := BitVec 4

/-- A 4-bit register value that holds a residue modulo 11; the canonical values are 0 to 10 (R100). -/
abbrev Residue := Nibble

/-- An 8-bit register index (R40, R60). -/
abbrev RegIndex := BitVec 8

/-- One byte on the platform's byte-addressed bus (R68, R69). -/
abbrev Byte := BitVec 8

end Sys2Proof
end

