-- ==== Sys2Proof/Syntax.lean ====
section
/-! DEFINITION. The eleven commands, one constructor per row of spec/opcode_table.json (R82).
A command word has no immediate and no register field (R84), so no constructor has an argument. -/

namespace Sys2Proof

/-- A command of the block (R82). -/
inductive Instr where
  /-- NEW: normalise an integer into a residue (R110). -/
  | new
  /-- ADD: residue addition (R111). -/
  | add
  /-- SUB: residue subtraction (R112). -/
  | sub
  /-- MUL: residue multiplication (R113). -/
  | mul
  /-- DIV: residue division (R114). -/
  | div
  /-- POW: residue power (R115). -/
  | pow
  /-- SQRT: residue square root (R116). -/
  | sqrt
  /-- EQ: residue equality (R117). -/
  | eq
  /-- CHECK: the check digits of a payload (R146). -/
  | check
  /-- SYND: the syndrome of a received word (R147). -/
  | synd
  /-- DECODE: decode a received word (R160). -/
  | decode
  deriving DecidableEq, Repr

end Sys2Proof
end

