-- ==== Sys2Proof/Config.lean ====
section
/-! DEFINITION. What an implementation or a platform fixes and the spec leaves OPEN (92_eei_decisions D29, D32, D37;
93_implementation_defined I13 to I15). Every constant is opaque: no proof can see its value. -/

namespace Sys2Proof

/-- The order of the bytes of a word on the platform's byte-addressed bus (R68). PRESUMED: log entry 9. -/
inductive ByteOrder where
  /-- The least significant byte has the lowest address. -/
  | little
  /-- The most significant byte has the lowest address. -/
  | big
  deriving DecidableEq, Repr, Inhabited

/-- BASE_ADDR counted in units of 1024 bytes: an OPEN parameter (R69, D32). -/
opaque Config.baseUnit : Nat

/-- BASE_ADDR, a multiple of 1024 (R69). -/
def Config.baseAddr : Nat := 1024 * Config.baseUnit

/-- BUS_ENDIAN, an OPEN parameter of the platform's bus adapter (R68, D37). -/
opaque Config.busEndian : ByteOrder

/-- CMD_LATENCY, an OPEN parameter: the time a CMD write takes, by command and operand values (A, B, D) (R227, D29).
No rule depends on it and no definition of the model reads it: a model has no time (R230, log entry 10). -/
opaque Config.cmdLatency : Instr → Word → Word → List Nibble → Nat

end Sys2Proof
end

