-- ==== Sys2Proof/WellFormed.lean ====
section
/-! DEFINITION. What a legal command word is (R80, R83), and the check on a command as syntax. -/

namespace Sys2Proof

/-- The reserved field RSV, bits [31:4] of a command word, must be 0 (R80). -/
abbrev rsvIsZero (w : Word) : Prop := w.extractLsb' 4 28 = 0

/-- The opcodes that stand for a command, 0x1 to 0xB; 0x0 and 0xC to 0xF are reserved (R82, R83). -/
abbrev opcIsAssigned (op : BitVec 4) : Prop := 1 ≤ op.toNat ∧ op.toNat ≤ 11

/-- A command word is legal when RSV is 0 and OPC is assigned (R83). -/
abbrev legalCommand (w : Word) : Prop := rsvIsZero w ∧ opcIsAssigned (w.extractLsb' 0 4)

/-- A command as syntax has no operand that could be out of range (R84), so every one is well formed. -/
def Instr.wf : Instr → Bool
  | .new | .add | .sub | .mul | .div | .pow | .sqrt | .eq | .check | .synd | .decode => true

end Sys2Proof
end

