-- ==== Sys2Proof/Decode.lean ====
section
/-! DEFINITION. The command decoder and encoder (R80 to R83, R85), both read off the opcode map of R82.
A command is one whole 32-bit word: the port has no byte lanes and no byte order (R68). -/

namespace Sys2Proof

/-- Why a command word is illegal (R83). Both end the command with ERR = ILLEGAL. -/
inductive DecodeError where
  /-- A bit of RSV, [31:4], is 1. -/
  | reservedBits
  /-- RSV is 0 and OPC is 0x0 or 0xC to 0xF. -/
  | reservedOpcode
  deriving DecidableEq, Repr

/-- The field OPC, bits [3:0] of a command word (R80). -/
def opcField (w : Word) : BitVec 4 := w.extractLsb' 0 4

/-- The opcode map of R82, read from the opcode to the command. -/
def decodeOpc (op : BitVec 4) : Option Instr :=
  match op with
  | 0x1#4 => some .new
  | 0x2#4 => some .add
  | 0x3#4 => some .sub
  | 0x4#4 => some .mul
  | 0x5#4 => some .div
  | 0x6#4 => some .pow
  | 0x7#4 => some .sqrt
  | 0x8#4 => some .eq
  | 0x9#4 => some .check
  | 0xA#4 => some .synd
  | 0xB#4 => some .decode
  | _ => none

/-- Decode a command word (R81, R83): the reserved bits first, then the opcode map. -/
def decode (w : Word) : Except DecodeError Instr :=
  if rsvIsZero w then
    match decodeOpc (opcField w) with
    | some i => .ok i
    | none => .error .reservedOpcode
  else .error .reservedBits

/-- The opcode of a command (R82). -/
def Instr.opcode : Instr → BitVec 4
  | .new => 0x1#4
  | .add => 0x2#4
  | .sub => 0x3#4
  | .mul => 0x4#4
  | .div => 0x5#4
  | .pow => 0x6#4
  | .sqrt => 0x7#4
  | .eq => 0x8#4
  | .check => 0x9#4
  | .synd => 0xA#4
  | .decode => 0xB#4

/-- The command word of a command, `zext_32(OPC)` (R82). -/
def encode (i : Instr) : Word := i.opcode.setWidth 32

/-- The command the decoder reads from a table row's bits. A command is one 32-bit word (R85), so a row of
more than 32 bits is no command; the bits above `nbits` are 0. -/
def decodeTableWord (nbits w : Nat) : Option Instr :=
  if nbits ≤ 32 then
    match decode (BitVec.ofNat 32 (w % 2 ^ nbits)) with
    | .ok i => some i
    | .error _ => none
  else none

end Sys2Proof
end

