-- ==== Sys2Proof/Machine/State.lean ====
section
/-! DEFINITION. The state of the block as plain data: the registers of 10_state, the port events still to be delivered,
what the reads returned, and the ghost error flag of R215. -/

namespace Sys2Proof.Machine

/-- Ten digit registers, `d1` at position 1 (the first, leftmost digit) to `d10` at position 10 (R34, R35). -/
structure Digits where
  d1 : Nibble
  d2 : Nibble
  d3 : Nibble
  d4 : Nibble
  d5 : Nibble
  d6 : Nibble
  d7 : Nibble
  d8 : Nibble
  d9 : Nibble
  d10 : Nibble
  deriving DecidableEq, Repr

/-- Ten digit registers that hold 0. -/
def Digits.zero : Digits := ⟨0, 0, 0, 0, 0, 0, 0, 0, 0, 0⟩

/-- One thing the outside does to the block (R60, R69, R220, R231). -/
inductive Event where
  /-- A read transaction of the register at an index (R62). -/
  | read (idx : RegIndex)
  /-- A write transaction of a word to the register at an index (R63). -/
  | write (idx : RegIndex) (w : Word)
  /-- A read of `width` bytes at a byte address of the platform's bus (R69). -/
  | platformRead (addr : Nat) (width : Nat)
  /-- A write of bytes at a byte address of the platform's bus, the lowest address first (R69). -/
  | platformWrite (addr : Nat) (bytes : List Byte)
  /-- Reset, asserted between two transactions (R220). -/
  | reset
  deriving DecidableEq, Repr

/-- Why a step would stop with a fault. Nobody raises one: the block has no trap and every error is a normal end of a
command (R204, R215), so the type has no constructor. Safe: a claim that no step faults holds of the block. -/
inductive Fault where
  deriving DecidableEq, Repr

/-- Why the model has no meaning for what it meets. -/
inductive Refusal where
  /-- An instruction whose meaning has not been written. Raised by no arm of `exec`, since every command has its meaning.
  Safe: it stops where the block goes on. -/
  | notModelled (mnemonic : String)
  /-- A platform access that is not an aligned 32-bit access to the block's window, which R69 asks a model to refuse.
  Raised by delivering a platform event. Safe: nothing is claimed of such an access. -/
  | platformAccess (addr width : Nat)
  /-- A disturbing transaction of another host inside a sequence that a host claims exclusive, which R215 and R226 ask
  a model to refuse. Raised by `runExclusive` of Machine/HostProgram.lean, never by a step. Safe. -/
  | interleaved (host : Nat)
  deriving DecidableEq, Repr

/-- The state of the block. ID and CMD store nothing: a read of ID answers a constant and a read of CMD answers 0
(R22, R23). -/
structure State where
  /-- STATUS (R24). -/
  status : Word
  /-- A, the first operand (R31). -/
  a : Word
  /-- B, the second operand (R32). -/
  b : Word
  /-- Y, the residue result of the last MAU command (R33). -/
  y : Residue
  /-- S0, the syndrome's element 0 (R36). -/
  s0 : Residue
  /-- S1, the syndrome's element 1 (R36). -/
  s1 : Residue
  /-- S2, the syndrome's element 2 (R36). -/
  s2 : Residue
  /-- S3, the syndrome's element 3 (R36). -/
  s3 : Residue
  /-- P, an error-locator coefficient (R37). -/
  p : Residue
  /-- Q, an error-locator coefficient (R37). -/
  q : Residue
  /-- R, an error-locator coefficient (R37). -/
  r : Residue
  /-- DISC, the discriminant (R38). -/
  disc : Residue
  /-- ROOT, its square root (R38). -/
  root : Residue
  /-- POS1, the first reported position (R39). -/
  pos1 : Residue
  /-- POS2, the second reported position (R39). -/
  pos2 : Residue
  /-- MAG1, the magnitude at POS1 (R39). -/
  mag1 : Residue
  /-- MAG2, the magnitude at POS2 (R39). -/
  mag2 : Residue
  /-- D[1] to D[10], the digit input registers (R34). -/
  d : Digits
  /-- C[1] to C[10], the digit output registers (R35). -/
  c : Digits
  /-- The model's own: the events the outside has still to deliver, in the port's order, oldest first (R60, R73).
  DESIGN CHOICE: log entry 1. -/
  pending : List Event
  /-- The model's own: what the reads so far returned to the hosts, newest first (R62, R232).
  DESIGN CHOICE: log entry 2. -/
  returned : List Word
  /-- The model's own ghost flag of R215: some command has ended with ERR other than OK. DESIGN CHOICE: log entry 3. -/
  erred : Bool
  deriving DecidableEq, Repr

/-- The state right after reset: every stored register is 0 (R43, R220), and the outside has delivered nothing. -/
def State.reset : State where
  status := 0
  a := 0
  b := 0
  y := 0
  s0 := 0
  s1 := 0
  s2 := 0
  s3 := 0
  p := 0
  q := 0
  r := 0
  disc := 0
  root := 0
  pos1 := 0
  pos2 := 0
  mag1 := 0
  mag2 := 0
  d := Digits.zero
  c := Digits.zero
  pending := []
  returned := []
  erred := false

end Sys2Proof.Machine
end

