-- ==== Sys2Proof/Machine/Flags.lean ====
section
/-! DEFINITION. STATUS, the block's only condition state: its codes, its layout and its fields (R24 to R30). -/

namespace Sys2Proof.Machine

/-- STATUS.ERR, the error of the last command (R25, R200). -/
inductive Err where
  | ok
  | divZero
  | noRoot
  | invalidDigit
  | unusable
  | noncanon
  | badExp
  | illegal
  deriving DecidableEq, Repr

/-- The value of an ERR name (R25). -/
def Err.code : Err → BitVec 4
  | .ok => 0
  | .divZero => 1
  | .noRoot => 2
  | .invalidDigit => 3
  | .unusable => 4
  | .noncanon => 5
  | .badExp => 6
  | .illegal => 7

/-- STATUS.OUTCOME, how the last DECODE ended (R26). -/
inductive DecodeEnd where
  /-- NONE: the last command was not DECODE, or it ended with an error. -/
  | notDecoded
  | noError
  | single
  | double
  | uncorrectable
  deriving DecidableEq, Repr

/-- The value of an OUTCOME name (R26). -/
def DecodeEnd.code : DecodeEnd → BitVec 3
  | .notDecoded => 0
  | .noError => 1
  | .single => 2
  | .double => 3
  | .uncorrectable => 4

/-- STATUS.REASON, why the last DECODE was uncorrectable (R27). -/
inductive Reason where
  /-- NONE_R. -/
  | noReason
  | divisionError
  | positionZero
  | noValidRoots
  | correctedToTen
  deriving DecidableEq, Repr

/-- The value of a REASON name (R27). -/
def Reason.code : Reason → BitVec 3
  | .noReason => 0
  | .divisionError => 1
  | .positionZero => 2
  | .noValidRoots => 3
  | .correctedToTen => 4

/-- The layout of STATUS (R24), from bit 31 down: 12 zeros, LASTOP, ERRPOS, 0, REASON, 0, OUTCOME, ERR. -/
def statusWord (err : Err) (outcome : DecodeEnd) (reason : Reason) (errpos lastop : BitVec 4) : Word :=
  0#12 ++ lastop ++ errpos ++ 0#1 ++ reason.code ++ 0#1 ++ outcome.code ++ err.code

/-- The field ERR of a STATUS word, bits [3:0] (R24). -/
def errField (w : Word) : BitVec 4 := w.extractLsb' 0 4

/-- The field OUTCOME, bits [6:4] (R24). -/
def outcomeField (w : Word) : BitVec 3 := w.extractLsb' 4 3

/-- The field REASON, bits [10:8] (R24). -/
def reasonField (w : Word) : BitVec 3 := w.extractLsb' 8 3

/-- The field ERRPOS, bits [15:12] (R24). -/
def errposField (w : Word) : BitVec 4 := w.extractLsb' 12 4

/-- The field LASTOP, bits [19:16] (R24). -/
def lastopField (w : Word) : BitVec 4 := w.extractLsb' 16 4

end Sys2Proof.Machine
end

