-- ==== Sys2Proof/Machine/Ops.lean ====
section
/-! DEFINITION. The named operations over residues and registers: the residue functions of R101 to R107, the digit
registers by position, and the two ways a command ends, `finish` and `raiseError` (R15, R203). The block has no trap:
`raiseError` is its whole error handling, and there is nothing to return from (R204, R205). -/

namespace Sys2Proof.Machine

/-! ### Residues -/

/-- `mod11(v)`: floor modulo, the r in 0..10 with v - r divisible by 11 (R13). -/
def mod11 (v : Int) : Residue := BitVec.ofNat 4 (v % 11).toNat

/-- `radd(a, b)` (R101). -/
def radd (a b : Residue) : Residue := mod11 ((a.toNat : Int) + b.toNat)

/-- `rsub(a, b)`, computed on integers before normalising (R102). -/
def rsub (a b : Residue) : Residue := mod11 ((a.toNat : Int) - b.toNat)

/-- `rneg(a) = rsub(0, a)` (R102). -/
def rneg (a : Residue) : Residue := rsub 0 a

/-- `rmul(a, b)` (R103). -/
def rmul (a b : Residue) : Residue := mod11 ((a.toNat : Int) * b.toNat)

/-- `rpow(a, n)` for n ≥ 1 by repeated multiplication, as R104 defines it; n = 0 is not defined there, POW refuses it
(R115), and this function answers 1. -/
def rpow (a : Residue) : Nat → Residue
  | 0 => 1
  | 1 => a
  | n + 2 => rmul (rpow a (n + 1)) a

/-- Square and multiply over `bits` bits of the exponent: `acc` times the power. -/
def rpowLoop : Nat → Residue → Residue → Nat → Residue
  | 0, _, acc, _ => acc
  | bits + 1, base, acc, n => rpowLoop bits (rmul base base) (if n % 2 = 1 then rmul acc base else acc) (n / 2)

/-- `rpow` for a 32-bit exponent, fast enough to evaluate: how POW computes is not observable (R115, R120).
It equals `rpow` on canonical residues and exponents n ≥ 1 (Laws/Residue.lean; log entry 6). -/
def rpow32 (a : Residue) (n : Word) : Residue := rpowLoop 32 a 1 n.toNat

/-- The residues 0 to 10 in ascending order, the candidates of the scans of R105 and R106. -/
def residues : List Residue := [0, 1, 2, 3, 4, 5, 6, 7, 8, 9, 10]

/-- `rdiv(a, b)`: no answer (FAIL) when b = 0, else the first k with mod11(k * b) = a (R105). -/
def rdiv (a b : Residue) : Option Residue :=
  if b = 0 then none else residues.find? fun k => rmul k b == a

/-- `rsqrt(a)`: the first x with mod11(x * x) = a, or no answer (FAIL) (R106). -/
def rsqrt (a : Residue) : Option Residue := residues.find? fun x => rmul x x == a

/-- `req(a, b)` (R107). -/
def req (a b : Residue) : Residue := if a = b then 1 else 0

/-! ### Digit registers -/

/-- The digit registers in position order, position 1 first (R34). -/
def Digits.toList (v : Digits) : List Nibble :=
  [v.d1, v.d2, v.d3, v.d4, v.d5, v.d6, v.d7, v.d8, v.d9, v.d10]

/-- The digit at position i + 1 (R34). -/
def Digits.get (v : Digits) (i : Fin 10) : Nibble :=
  match i with
  | 0 => v.d1
  | 1 => v.d2
  | 2 => v.d3
  | 3 => v.d4
  | 4 => v.d5
  | 5 => v.d6
  | 6 => v.d7
  | 7 => v.d8
  | 8 => v.d9
  | 9 => v.d10

/-- Replace the digit at position i + 1 (R34). -/
def Digits.set (v : Digits) (i : Fin 10) (x : Nibble) : Digits :=
  match i with
  | 0 => { v with d1 := x }
  | 1 => { v with d2 := x }
  | 2 => { v with d3 := x }
  | 3 => { v with d4 := x }
  | 4 => { v with d5 := x }
  | 5 => { v with d6 := x }
  | 6 => { v with d7 := x }
  | 7 => { v with d8 := x }
  | 8 => { v with d9 := x }
  | 9 => { v with d10 := x }

/-- The digit a residue read as a position indexes: positions are 1 to 10, and a zero residue indexes none (R167). -/
def digitAt (pos : Residue) : Option (Fin 10) :=
  if h : 1 ≤ pos.toNat ∧ pos.toNat ≤ 10 then some ⟨pos.toNat - 1, by omega⟩ else none

/-! ### How a command ends -/

/-- The write set of a command, without STATUS, which every command writes (R203). -/
inductive WriteSet where
  /-- Y, of the eight MAU commands. -/
  | mau
  /-- C[1..10], of CHECK. -/
  | check
  /-- S0..S3, of SYND. -/
  | synd
  /-- S0..S3, P, Q, R, DISC, ROOT, POS1, POS2, MAG1, MAG2 and C[1..10], of DECODE. -/
  | decode
  /-- Nothing, of an illegal word. -/
  | nothing
  deriving DecidableEq, Repr

/-- Set every register of a write set to 0 (R203). -/
def clearWriteSet (ws : WriteSet) (s : State) : State :=
  match ws with
  | .mau => { s with y := 0 }
  | .check => { s with c := Digits.zero }
  | .synd => { s with s0 := 0, s1 := 0, s2 := 0, s3 := 0 }
  | .decode =>
    { s with
      s0 := 0, s1 := 0, s2 := 0, s3 := 0, p := 0, q := 0, r := 0, disc := 0, root := 0,
      pos1 := 0, pos2 := 0, mag1 := 0, mag2 := 0, c := Digits.zero }
  | .nothing => s

/-- What a command that ends with an error reports: ERR and ERRPOS (R15, R28). -/
structure Raise where
  code : Err
  errpos : BitVec 4
  deriving DecidableEq, Repr

/-- `finish(err, outcome, reason, errpos)` of a command with opcode `op`: write the whole of STATUS, with LASTOP = op
(R15, R24, R29); the ghost flag of R215 is set when err is not OK. -/
def finish (op : BitVec 4) (err : Err) (outcome : DecodeEnd) (reason : Reason) (errpos : BitVec 4) (s : State) :
    State :=
  { s with
    status := statusWord err outcome reason errpos op
    erred := s.erred || err != .ok }

/-- `finish(OK, NONE, NONE_R, 0)`, the end of every command but DECODE that raised nothing (R15). -/
def finishOk (op : BitVec 4) (s : State) : State := finish op .ok .notDecoded .noReason 0 s

/-- `raise Error(code, errpos)`: zero the write set, then finish(code, NONE, NONE_R, errpos) (R15, R203). -/
def raiseError (ws : WriteSet) (op : BitVec 4) (e : Raise) (s : State) : State :=
  finish op e.code .notDecoded .noReason e.errpos (clearWriteSet ws s)

/-- Reset: every register at its reset value (R43, R220). What the outside has still to deliver, what it has read, and
the ghost flag, which R215 never clears, are not registers of the block and stay (log entry 7). -/
def resetRegisters (s : State) : State :=
  { State.reset with pending := s.pending, returned := s.returned, erred := s.erred }

end Sys2Proof.Machine
end

