-- ==== Sys2Proof/Machine/Operands.lean ====
section
/-! DEFINITION. How a command reads its operands (R84): A as a signed integer, A and B as canonical residues, B as an
unsigned exponent, and the digit registers as decimal digits. -/

namespace Sys2Proof.Machine

/-- `canon(v, p)`: a residue operand must be below 11 when read as unsigned, else NONCANON at place p, 1 for A and 2 for
B (R109). -/
def canon (v : Word) (place : BitVec 4) : Except Raise Residue :=
  if v.toNat < 11 then .ok (v.setWidth 4) else .error ⟨.noncanon, place⟩

/-- A as a canonical residue (R31, R109). -/
def operandA (s : State) : Except Raise Residue := canon s.a 1

/-- B as a canonical residue (R32, R109). -/
def operandB (s : State) : Except Raise Residue := canon s.b 2

/-- A as the signed integer `sext_32(reg[A])`, read by NEW alone (R31, R12). -/
def operandSigned (s : State) : Int := s.a.toInt

/-- B as POW's unsigned exponent; 0 is BAD_EXP (R32, R115). -/
def operandExponent (s : State) : Except Raise Word :=
  if s.b = 0 then .error ⟨.badExp, 0⟩ else .ok s.b

/-- A residue function's answer, or the error a command raises where it answers FAIL (R16). -/
def answerOr (code : Err) : Option Residue → Except Raise Residue
  | some x => .ok x
  | none => .error ⟨code, 0⟩

/-- The position of the first value of 10 or more in a list whose first element stands at position `pos`. -/
def firstTenOrMore : Nat → List Nibble → Option Nat
  | _, [] => none
  | pos, x :: rest => if 10 ≤ x.toNat then some pos else firstTenOrMore (pos + 1) rest

/-- `checkdigits(1, hi)` over the digits D[1..hi]: INVALID_DIGIT at the lowest position that holds 10..15 (R144). -/
def checkDigits (digits : List Nibble) : Except Raise Unit :=
  match firstTenOrMore 1 digits with
  | some pos => .error ⟨.invalidDigit, BitVec.ofNat 4 pos⟩
  | none => .ok ()

/-- The payload D[1..6], read by CHECK (R84). -/
def payload (s : State) : List Nibble := s.d.toList.take 6

/-- The word D[1..10], read by SYND and DECODE (R84). -/
def receivedWord (s : State) : List Nibble := s.d.toList

end Sys2Proof.Machine
end

