-- ==== Sys2Proof/Machine/Sacc.lean ====
section
/-! DEFINITION. The syndrome accumulator: its two weight tables and its commands CHECK and SYND (R140 to R147).
The tables are constants; no register holds them (R143). -/

namespace Sys2Proof.Machine

/-- Row k of W_SYN, the syndrome weights of positions 1 to 10 (the table of R141). -/
def wSyn : Fin 4 → List Nat
  | 0 => [1, 1, 1, 1, 1, 1, 1, 1, 1, 1]
  | 1 => [1, 2, 3, 4, 5, 6, 7, 8, 9, 10]
  | 2 => [1, 4, 9, 5, 3, 3, 5, 9, 4, 1]
  | 3 => [1, 8, 5, 9, 4, 7, 2, 6, 3, 10]

/-- Row k of W_CHK, the weights of payload positions 1 to 6 in check digit 7 + k (the table of R142). -/
def wChk : Fin 4 → List Nat
  | 0 => [4, 10, 9, 2, 1, 7]
  | 1 => [7, 8, 7, 1, 9, 6]
  | 2 => [9, 1, 7, 8, 7, 7]
  | 3 => [1, 2, 9, 10, 4, 1]

/-- The integer sum of weights times digits; it exists only inside one command (R140, R151). -/
def weightedSum : List Nat → List Nibble → Nat
  | w :: ws, x :: xs => w * x.toNat + weightedSum ws xs
  | _, _ => 0

/-- `wsum(W[k], d, L)`: one lane's sum, reduced modulo 11 (R140). -/
def wsum (weights : List Nat) (digits : List Nibble) : Residue := mod11 (weightedSum weights digits)

/-- The four check values of a payload (R146). -/
def checkValues (digits : List Nibble) : List Residue :=
  [wsum (wChk 0) digits, wsum (wChk 1) digits, wsum (wChk 2) digits, wsum (wChk 3) digits]

/-- UNUSABLE at the first check digit whose value is 10; the first check digit stands at position 7 (R146). -/
def checkUsable (values : List Residue) : Except Raise Unit :=
  match firstTenOrMore 7 values with
  | some pos => .error ⟨.unusable, BitVec.ofNat 4 pos⟩
  | none => .ok ()

/-- The codeword: the payload D[1..6], then its four check digits (R146). -/
def codeword (s : State) : Digits :=
  { s.d with
    d7 := wsum (wChk 0) (payload s), d8 := wsum (wChk 1) (payload s)
    d9 := wsum (wChk 2) (payload s), d10 := wsum (wChk 3) (payload s) }

/-- CHECK: the check digits of the payload, written with it to C (R146). -/
def execCheck (s : State) : Host.Outcome State Fault Refusal :=
  match (do checkDigits (payload s); checkUsable (checkValues (payload s)) : Except Raise Unit) with
  | .ok _ => .next (finishOk Instr.check.opcode { s with c := codeword s })
  | .error e => .next (raiseError .check Instr.check.opcode e s)

/-- Write the syndrome of D to S0..S3 (R147, R161). -/
def loadSyndrome (s : State) : State :=
  { s with
    s0 := wsum (wSyn 0) (receivedWord s), s1 := wsum (wSyn 1) (receivedWord s)
    s2 := wsum (wSyn 2) (receivedWord s), s3 := wsum (wSyn 3) (receivedWord s) }

/-- SYND: the syndrome of the received word (R147). -/
def execSynd (s : State) : Host.Outcome State Fault Refusal :=
  match checkDigits (receivedWord s) with
  | .ok _ => .next (finishOk Instr.synd.opcode (loadSyndrome s))
  | .error e => .next (raiseError .synd Instr.synd.opcode e s)

end Sys2Proof.Machine
end

