-- ==== Sys2Proof/Machine/Els.lean ====
section
/-! DEFINITION. The error locator solver and DECODE (R160 to R178), step by step as the pseudocode of R160. -/

namespace Sys2Proof.Machine

/-- A DECODE that ends with ERR = OK (R160). -/
def decodeFinish (outcome : DecodeEnd) (reason : Reason) (s : State) : State :=
  finish Instr.decode.opcode .ok outcome reason 0 s

/-- An uncorrectable end: C stays the uncorrected word, and the positions and magnitudes stay 0 (R177). -/
def uncorrectable (reason : Reason) (s : State) : State := decodeFinish .uncorrectable reason s

/-- Step 1: S0..S3 hold the syndrome, every other result register 0, and C the uncorrected word (R160, R161). -/
def decodeStart (s : State) : State :=
  { loadSyndrome s with
    p := 0, q := 0, r := 0, disc := 0, root := 0, pos1 := 0, pos2 := 0, mag1 := 0, mag2 := 0, c := s.d }

/-- Step 3: the error-locator coefficients (R163). -/
def loadCoefficients (s : State) : State :=
  { s with
    p := rsub (rmul s.s1 s.s1) (rmul s.s0 s.s2)
    q := rsub (rmul s.s0 s.s3) (rmul s.s1 s.s2)
    r := rsub (rmul s.s2 s.s2) (rmul s.s1 s.s3) }

/-- Step 4: the single-error branch (R165 to R169). There is no test for a corrected value of 10 (R168). -/
def singleBranch (s : State) : State :=
  match rdiv s.s1 s.s0 with
  | none => uncorrectable .divisionError s
  | some pos =>
    match digitAt pos with
    | none => uncorrectable .positionZero s
    | some i =>
      decodeFinish .single .noReason
        { s with c := s.c.set i (rsub (s.d.get i) s.s0), pos1 := pos, mag1 := s.s0 }

/-- Steps 5d to 5g: the magnitudes at two positions, and the correction of both digits (R173 to R176). -/
def correctTwo (pos1 pos2 : Residue) (i1 i2 : Fin 10) (s : State) : State :=
  match rdiv (rsub (rmul pos1 s.s0) s.s1) (rsub pos1 pos2) with
  | none => uncorrectable .divisionError s
  | some mag2 =>
    let mag1 := rsub s.s0 mag2
    let n1 := mod11 ((s.d.get i1).toNat + (11 - mag1.toNat))
    let n2 := mod11 ((s.d.get i2).toNat + (11 - mag2.toNat))
    if 9 < n1.toNat ∨ 9 < n2.toNat then uncorrectable .correctedToTen s
    else
      decodeFinish .double .noReason
        { s with c := (s.c.set i1 n1).set i2 n2, pos1 := pos1, pos2 := pos2, mag1 := mag1, mag2 := mag2 }

/-- Steps 5b and 5c: the two roots of the quadratic, which are the positions (R171, R172). -/
def locateTwo (root : Residue) (s : State) : State :=
  let den := rmul 2 s.p
  match rdiv (rsub root s.q) den, rdiv (rsub (rneg s.q) root) den with
  | some pos1, some pos2 =>
    match digitAt pos1, digitAt pos2 with
    | some i1, some i2 => correctTwo pos1 pos2 i1 i2 s
    | _, _ => uncorrectable .positionZero s
  | _, _ => uncorrectable .divisionError s

/-- Step 5a: the discriminant and its square root, then steps 5b to 5g (R170). -/
def doubleBranch (s : State) : State :=
  let disc := rsub (rmul s.q s.q) (rmul 4 (rmul s.p s.r))
  match rsqrt disc with
  | none => uncorrectable .noValidRoots { s with disc := disc }
  | some root => locateTwo root { s with disc := disc, root := root }

/-- Steps 3 to 5 of a word whose syndrome is not zero: exactly one branch is taken (R164). -/
def solve (s : State) : State :=
  let s := loadCoefficients s
  if s.p = 0 ∧ s.q = 0 ∧ s.r = 0 then singleBranch s else doubleBranch s

/-- Step 2: a zero syndrome is no error (R162). -/
def dispatchSyndrome (s : State) : State :=
  if s.s0 = 0 ∧ s.s1 = 0 ∧ s.s2 = 0 ∧ s.s3 = 0 then decodeFinish .noError .noReason s else solve s

/-- DECODE (R160). -/
def execDecode (s : State) : Host.Outcome State Fault Refusal :=
  match checkDigits (receivedWord s) with
  | .ok _ => .next (dispatchSyndrome (decodeStart s))
  | .error e => .next (raiseError .decode Instr.decode.opcode e s)

end Sys2Proof.Machine
end

