-- ==== Sys2Proof/Machine/Mau.lean ====
section
/-! DEFINITION. The eight commands of the modular arithmetic unit (R110 to R117). Each reads its operands in the order of
its rule's pseudocode, and ends at the first error it raises. -/

namespace Sys2Proof.Machine

/-- The end of an MAU command: Y and finish(OK), or its error with Y zeroed (40_modular_arithmetic section 2, R203). -/
def mauEnd (i : Instr) (result : Except Raise Residue) (s : State) : Host.Outcome State Fault Refusal :=
  match result with
  | .ok v => .next (finishOk i.opcode { s with y := v })
  | .error e => .next (raiseError .mau i.opcode e s)

/-- NEW (R110). -/
def execNew (s : State) : Host.Outcome State Fault Refusal := mauEnd .new (.ok (mod11 (operandSigned s))) s

/-- ADD (R111). -/
def execAdd (s : State) : Host.Outcome State Fault Refusal :=
  mauEnd .add (do let a ← operandA s; let b ← operandB s; .ok (radd a b)) s

/-- SUB (R112). -/
def execSub (s : State) : Host.Outcome State Fault Refusal :=
  mauEnd .sub (do let a ← operandA s; let b ← operandB s; .ok (rsub a b)) s

/-- MUL (R113). -/
def execMul (s : State) : Host.Outcome State Fault Refusal :=
  mauEnd .mul (do let a ← operandA s; let b ← operandB s; .ok (rmul a b)) s

/-- DIV: the dividend is A, the divisor is B; a divisor of 0 is DIV_ZERO (R114). -/
def execDiv (s : State) : Host.Outcome State Fault Refusal :=
  mauEnd .div (do let a ← operandA s; let b ← operandB s; answerOr .divZero (rdiv a b)) s

/-- POW: the base is A, the exponent is B; an exponent of 0 is BAD_EXP (R115). -/
def execPow (s : State) : Host.Outcome State Fault Refusal :=
  mauEnd .pow (do let a ← operandA s; let n ← operandExponent s; .ok (rpow32 a n)) s

/-- SQRT: the smaller root of A; no root is NO_ROOT (R116). -/
def execSqrt (s : State) : Host.Outcome State Fault Refusal :=
  mauEnd .sqrt (do let a ← operandA s; answerOr .noRoot (rsqrt a)) s

/-- EQ (R117). -/
def execEq (s : State) : Host.Outcome State Fault Refusal :=
  mauEnd .eq (do let a ← operandA s; let b ← operandB s; .ok (req a b)) s

end Sys2Proof.Machine
end

