-- ==== Sys2Proof/Machine/Dispatch.lean ====
section
/-! DEFINITION. One command's meaning, by its constructor (R82). -/

namespace Sys2Proof.Machine

def exec (i : Instr) (s : State) : Host.Outcome State Fault Refusal :=
  match i with
  | .new => Sys2Proof.Machine.execNew s
  | .add => Sys2Proof.Machine.execAdd s
  | .sub => Sys2Proof.Machine.execSub s
  | .mul => Sys2Proof.Machine.execMul s
  | .div => Sys2Proof.Machine.execDiv s
  | .pow => Sys2Proof.Machine.execPow s
  | .sqrt => Sys2Proof.Machine.execSqrt s
  | .eq => Sys2Proof.Machine.execEq s
  | .check => Sys2Proof.Machine.execCheck s
  | .synd => Sys2Proof.Machine.execSynd s
  | .decode => Sys2Proof.Machine.execDecode s

end Sys2Proof.Machine
end

