-- ==== Sys2Proof/Machine/RegisterMap.lean ====
section
/-! DEFINITION. The register map of 10_state (R20 to R40): every register's name, index, access and value on the port. -/

namespace Sys2Proof.Machine

/-- The registers of the map. `d i` is D[i+1] and `c i` is C[i+1]. -/
inductive Reg where
  | id | cmd | status | a | b | y
  | s0 | s1 | s2 | s3
  | p | q | r | disc | root
  | pos1 | pos2 | mag1 | mag2
  | d (i : Fin 10)
  | c (i : Fin 10)
  deriving DecidableEq, Repr

/-- A register's index on the port (the register map of 10_state; R34, R35). -/
def Reg.index : Reg → RegIndex
  | .id => 0x00
  | .cmd => 0x01
  | .status => 0x02
  | .a => 0x03
  | .b => 0x04
  | .y => 0x05
  | .s0 => 0x06
  | .s1 => 0x07
  | .s2 => 0x08
  | .s3 => 0x09
  | .p => 0x0A
  | .q => 0x0B
  | .r => 0x0C
  | .disc => 0x0D
  | .root => 0x0E
  | .pos1 => 0x10
  | .pos2 => 0x11
  | .mag1 => 0x12
  | .mag2 => 0x13
  | .d i => BitVec.ofNat 8 (0x20 + i.val)
  | .c i => BitVec.ofNat 8 (0x30 + i.val)

/-- The positions of a word, 1 to 10, counted from 0. -/
def positions : List (Fin 10) := [0, 1, 2, 3, 4, 5, 6, 7, 8, 9]

/-- The whole register map in index order; every other index is reserved (R66). -/
def registerMap : List Reg :=
  [.id, .cmd, .status, .a, .b, .y, .s0, .s1, .s2, .s3, .p, .q, .r, .disc, .root, .pos1, .pos2, .mag1, .mag2]
    ++ positions.map .d ++ positions.map .c

/-- The register at an index, or none where the index is reserved (R40, R66). -/
def regAt (idx : RegIndex) : Option Reg := registerMap.find? fun reg => reg.index == idx

/-- A register's 32-bit value on the port: narrow values are zero-extended (R12, R62). ID is the constant of R22 and
CMD, which stores nothing, reads 0 (R23). -/
def readReg (reg : Reg) (s : State) : Word :=
  match reg with
  | .id => 0x01060A0B
  | .cmd => 0x00000000
  | .status => s.status
  | .a => s.a
  | .b => s.b
  | .y => s.y.setWidth 32
  | .s0 => s.s0.setWidth 32
  | .s1 => s.s1.setWidth 32
  | .s2 => s.s2.setWidth 32
  | .s3 => s.s3.setWidth 32
  | .p => s.p.setWidth 32
  | .q => s.q.setWidth 32
  | .r => s.r.setWidth 32
  | .disc => s.disc.setWidth 32
  | .root => s.root.setWidth 32
  | .pos1 => s.pos1.setWidth 32
  | .pos2 => s.pos2.setWidth 32
  | .mag1 => s.mag1.setWidth 32
  | .mag2 => s.mag2.setWidth 32
  | .d i => (s.d.get i).setWidth 32
  | .c i => (s.c.get i).setWidth 32

/-- `BusRead(idx)`: a register's value, or 0 at a reserved index; it changes no state (R62, R66). -/
def busRead (idx : RegIndex) (s : State) : Word :=
  match regAt idx with
  | some reg => readReg reg s
  | none => 0x00000000

/-- A host's write of a register other than CMD: A and B keep all 32 bits, D[i] keeps bits [3:0], and a read-only
register ignores the write (R31, R32, R34, R63, R65). CMD stores nothing (R23). -/
def storeReg (reg : Reg) (w : Word) (s : State) : State :=
  match reg with
  | .a => { s with a := w }
  | .b => { s with b := w }
  | .d i => { s with d := s.d.set i (w.setWidth 4) }
  | .id | .cmd | .status | .y | .s0 | .s1 | .s2 | .s3 | .p | .q | .r | .disc | .root
  | .pos1 | .pos2 | .mag1 | .mag2 | .c _ => s

end Sys2Proof.Machine
end

