-- ==== Sys2Proof/Machine/Port.lean ====
section
/-! DEFINITION. The access port (R60 to R76): a command word's execution, the write transaction, the platform's view of
the port (R68, R69), and the delivery of one event. -/

namespace Sys2Proof.Machine

/-- An illegal command word: STATUS alone changes, with ERR = ILLEGAL and LASTOP = w[3:0] (R81, R83). -/
def illegalCommand (w : Word) (s : State) : Host.Outcome State Fault Refusal :=
  .next (raiseError .nothing (opcField w) ⟨.illegal, 0⟩ s)

/-- `execute_command(w)`: decode, then the command's meaning or the illegal end (R81). -/
def executeCommand (w : Word) (s : State) : Host.Outcome State Fault Refusal :=
  match decode w with
  | .ok i => exec i s
  | .error _ => illegalCommand w s

/-- `BusWrite(idx, w)`: a write of CMD runs a command, a write of A, B or D[i] stores, and a write of a read-only
register or a reserved index has no effect (R63, R65, R66). -/
def busWrite (idx : RegIndex) (w : Word) (s : State) : Host.Outcome State Fault Refusal :=
  match regAt idx with
  | some .cmd => executeCommand w s
  | some reg => .next (storeReg reg w s)
  | none => .next s

/-- A read transaction: the word goes to the host, and no register changes (R62, R67). -/
def portRead (idx : RegIndex) (s : State) : Host.Outcome State Fault Refusal :=
  .next { s with returned := busRead idx s :: s.returned }

/-- The register index of a platform access, where it is a naturally aligned 32-bit access to the block's window of 256
words at BASE_ADDR; none for every other access, which R69 leaves undefined. -/
def platformIndex (addr width : Nat) : Option RegIndex :=
  if width = 4 ∧ addr % 4 = 0 ∧ Config.baseAddr ≤ addr ∧ addr < Config.baseAddr + 1024 then
    some (BitVec.ofNat 8 ((addr - Config.baseAddr) / 4))
  else none

/-- A word from its bytes, the least significant first; bytes past the fourth have no place in it. -/
def wordOfBytes : List Byte → Word
  | [] => 0
  | x :: rest => (wordOfBytes rest) <<< 8 ||| x.setWidth 32

/-- The word the bus adapter makes of four bytes in address order, by BUS_ENDIAN (R68). -/
def adapterWord (order : ByteOrder) (bytes : List Byte) : Word :=
  match order with
  | .little => wordOfBytes bytes
  | .big => wordOfBytes bytes.reverse

/-- The four bytes in address order that the bus adapter makes of a word, by BUS_ENDIAN (R68). -/
def adapterBytes (order : ByteOrder) (w : Word) : List Byte :=
  let bytes := [w.extractLsb' 0 8, w.extractLsb' 8 8, w.extractLsb' 16 8, w.extractLsb' 24 8]
  match order with
  | .little => bytes
  | .big => bytes.reverse

/-- A read of the platform's bus: a read transaction, or refused (R69). -/
def platformRead (addr width : Nat) (s : State) : Host.Outcome State Fault Refusal :=
  match platformIndex addr width with
  | some idx => portRead idx s
  | none => .refused (.platformAccess addr width)

/-- A write of the platform's bus: a write transaction of the adapter's word, or refused (R69). -/
def platformWrite (addr : Nat) (bytes : List Byte) (s : State) : Host.Outcome State Fault Refusal :=
  match platformIndex addr bytes.length with
  | some idx => busWrite idx (adapterWord Config.busEndian bytes) s
  | none => .refused (.platformAccess addr bytes.length)

/-- Deliver one event, atomically (R60, R220). -/
def deliver (e : Event) (s : State) : Host.Outcome State Fault Refusal :=
  match e with
  | .read idx => portRead idx s
  | .write idx w => busWrite idx w s
  | .platformRead addr width => platformRead addr width s
  | .platformWrite addr bytes => platformWrite addr bytes s
  | .reset => .next (resetRegisters s)

/-- Put an event before every event still to be delivered. -/
def deliverNext (e : Event) (s : State) : State := { s with pending := e :: s.pending }

/-- One step of the block: the oldest event is taken and delivered (R60, R73); with none, the block waits (R221, R232). -/
def portStep (s : State) : Host.Outcome State Fault Refusal :=
  match s.pending with
  | [] => .next s
  | e :: rest => deliver e { s with pending := rest }

end Sys2Proof.Machine
end

