-- ==== Sys2Proof/Machine/Step.lean ====
section
/-! DEFINITION. The step of the block, one event of the port (R60). -/

namespace Sys2Proof.Machine

/-- One step: deliver the oldest pending event, or wait (R60, R221). -/
def step (s : State) : Host.Outcome State Fault Refusal := portStep s

/-- The state whose next step runs the command word w: a write of w to CMD is the next event (R23, R72; log entry 8).
A command word has 32 bits (R85), and its bits above `nbits` are 0. -/
def State.withFetchWord (s : State) (nbits w : Nat) : State :=
  deliverNext (.write Reg.cmd.index (BitVec.ofNat 32 (w % 2 ^ nbits))) s

end Sys2Proof.Machine
end

