-- ==== Sys2Proof/Machine/HostProgram.lean ====
section
/-! DEFINITION. The host's side of the port: the host notation of R86 and R87, its run and end (R232), and the sharing of
the port by several hosts (R75, R226). None of it is executed by the block: it is defined over `step`. -/

namespace Sys2Proof.Machine

/-! ### Host programs -/

/-- A value of a host statement: a constant, or a host variable read earlier (R86). Variables are numbered. -/
inductive HostVal where
  | const (w : Word)
  | var (t : Nat)
  deriving DecidableEq, Repr

/-- What a host branch tests: a value, or a STATUS field of a variable that holds a STATUS value (R86). -/
inductive HostTest where
  | whole (v : HostVal)
  | err (t : Nat)
  | outcome (t : Nat)
  | reason (t : Nat)
  | errpos (t : Nat)
  | lastop (t : Nat)
  deriving DecidableEq, Repr

/-- The two comparisons of a host branch (R86). -/
inductive HostCmp where
  | eq
  | ne
  deriving DecidableEq, Repr

/-- A host statement (R86). Labels are numbered. -/
inductive HostStmt where
  /-- `WR <reg>, <v>`. -/
  | wr (reg : Reg) (v : HostVal)
  /-- `RD <reg> -> <t>`. -/
  | rd (reg : Reg) (t : Nat)
  /-- A mnemonic, `WR CMD, <word>`. -/
  | command (i : Instr)
  /-- `IF <t> <op> <v> GOTO <label>`. -/
  | ifGoto (test : HostTest) (cmp : HostCmp) (v : HostVal) (label : Nat)
  /-- `<label>:`. -/
  | label (l : Nat)
  /-- `HALT`. -/
  | halt
  deriving DecidableEq, Repr

/-- The pseudo-statement `LDA v` (R87). -/
def lda (v : HostVal) : List HostStmt := [.wr .a v]

/-- The pseudo-statement `LDB v` (R87). -/
def ldb (v : HostVal) : List HostStmt := [.wr .b v]

/-- Writes of digits to D in position order, from position 1: `LDW` with ten digits and `LDP` with six (R87). -/
def loadDigits (digits : List Word) : List HostStmt :=
  (positions.zip digits).map fun x => .wr (.d x.1) (.const x.2)

/-- The pseudo-statement `COPYCD`, through the host variable t (R87). -/
def copyCD (t : Nat) : List HostStmt := positions.flatMap fun i => [.rd (.c i) t, .wr (.d i) (.var t)]

/-- The pseudo-statement `OP2 <MN> a, b` (R87). -/
def op2 (i : Instr) (a b : HostVal) : List HostStmt := lda a ++ ldb b ++ [.command i]

/-- The pseudo-statement `OP1 <MN> a` (R87). -/
def op1 (i : Instr) (a : HostVal) : List HostStmt := lda a ++ [.command i]

/-- A host that runs a program: the statements still to run, and its variables, the latest binding first. -/
structure HostState where
  rest : List HostStmt
  vars : List (Nat × Word)
  /-- The STATUS values the program has read, newest first (R233). -/
  statusRead : List Word
  deriving DecidableEq, Repr

/-- A program before its first statement. -/
def HostState.start (program : List HostStmt) : HostState := ⟨program, [], []⟩

/-- A value, or none for a variable that nothing has been read into (log entry 12). -/
def HostVal.eval (vars : List (Nat × Word)) : HostVal → Option Word
  | .const w => some w
  | .var t => vars.lookup t

/-- The tested value; a STATUS field is zero-extended (R24, R86). DESIGN CHOICE: R86 gives `t.FIELD` a meaning for a
variable that holds a STATUS value; of a variable read from another register the same bits are taken (log entry 16). -/
def HostTest.eval (vars : List (Nat × Word)) : HostTest → Option Word
  | .whole v => v.eval vars
  | .err t => (vars.lookup t).map fun w => (errField w).setWidth 32
  | .outcome t => (vars.lookup t).map fun w => (outcomeField w).setWidth 32
  | .reason t => (vars.lookup t).map fun w => (reasonField w).setWidth 32
  | .errpos t => (vars.lookup t).map fun w => (errposField w).setWidth 32
  | .lastop t => (vars.lookup t).map fun w => (lastopField w).setWidth 32

/-- Whether a comparison holds. -/
def HostCmp.holds (cmp : HostCmp) (x v : Word) : Bool :=
  match cmp with
  | .eq => x == v
  | .ne => x != v

/-- The statements from a label on (R86), or none where the program has no such label (log entry 12). DESIGN CHOICE: where
two statements of a program have one label, which R86 does not settle, the first is meant (log entry 17). -/
def fromLabel (l : Nat) : List HostStmt → Option (List HostStmt)
  | [] => none
  | .label k :: rest => if k = l then some rest else fromLabel l rest
  | _ :: rest => fromLabel l rest

/-- What one host statement does. -/
inductive HostOutcome where
  /-- The host goes on. -/
  | running (h : HostState) (s : State)
  /-- The program has ended: HALT, or no statement is left (R232). -/
  | ended (h : HostState) (s : State)
  /-- The program uses a variable nothing was read into, or a label it does not have: no statement of R86. -/
  | illFormed
  /-- The block stopped. -/
  | stopped (o : Host.Outcome State Fault Refusal)
  deriving Repr

/-- Deliver one event of the host's next transaction and go on as h does with the state after it. -/
def hostTransact (e : Event) (h : State → HostState) (s : State) : HostOutcome :=
  match step (deliverNext e s) with
  | .next s' => .running (h s') s'
  | o => .stopped o

/-- The value a read has just returned (R62). -/
def lastReturned (s : State) : Word := s.returned.headD 0

/-- The host after `RD <reg> -> <t>` (R86, R233). -/
def HostState.afterRead (h : HostState) (rest : List HostStmt) (reg : Reg) (t : Nat) (w : Word) : HostState :=
  { rest := rest, vars := (t, w) :: h.vars, statusRead := if reg = .status then w :: h.statusRead else h.statusRead }

/-- One host statement (R86). -/
def hostStep (program : List HostStmt) (h : HostState) (s : State) : HostOutcome :=
  match h.rest with
  | [] => .ended h s
  | .halt :: _ => .ended h s
  | .label _ :: rest => .running { h with rest := rest } s
  | .command i :: rest => hostTransact (.write Reg.cmd.index (encode i)) (fun _ => { h with rest := rest }) s
  | .rd reg t :: rest => hostTransact (.read reg.index) (fun s' => h.afterRead rest reg t (lastReturned s')) s
  | .wr reg v :: rest =>
    match v.eval h.vars with
    | none => .illFormed
    | some w => hostTransact (.write reg.index w) (fun _ => { h with rest := rest }) s
  | .ifGoto test cmp v l :: rest =>
    match test.eval h.vars, v.eval h.vars, fromLabel l program with
    | some x, some w, some target => .running { h with rest := if cmp.holds x w then target else rest } s
    | _, _, _ => .illFormed

/-- The run of a host program for at most n statements (R232). -/
def hostRun (program : List HostStmt) : Nat → HostState → State → HostOutcome
  | 0, h, s => .running h s
  | n + 1, h, s =>
    match hostStep program h s with
    | .running h' s' => hostRun program n h' s'
    | o => o

/-! ### Several hosts -/

/-- The events that may disturb another host's sequence: a write of A, B, D or CMD (R226), and reset (R220). A platform
access disturbs when it is a write. -/
def disturbs : Event → Bool
  | .read _ => false
  | .platformRead _ _ => false
  | .reset => true
  | .platformWrite _ _ => true
  | .write idx _ =>
    match regAt idx with
    | some .cmd | some .a | some .b | some (.d _) => true
    | _ => false

/-- Run the events of several hosts in the port's order while `me` claims the sequence exclusive: another host's
disturbing event is refused, every other event is delivered (R75, R215, R226). -/
def runExclusive (me : Nat) : List (Nat × Event) → State → Host.Outcome State Fault Refusal
  | [], s => .next s
  | (host, e) :: rest, s =>
    if host ≠ me ∧ disturbs e then .refused (.interleaved host)
    else
      match step (deliverNext e s) with
      | .next s' => runExclusive me rest s'
      | o => o

end Sys2Proof.Machine
end

