-- ==== Sys2Proof/Safety.lean ====
section
/-! DEFINITION. What counts as a sound state and a safe run, in the terms the statements use: the invariant of R42 with
the legal STATUS values of R24 to R29, a codeword (R148), and a run without error (R233). -/

namespace Sys2Proof.Machine

/-- A register value that is a canonical residue, 0..10 (R18). -/
abbrev Canonical (v : Residue) : Prop := v.toNat ≤ 10

/-- A digit value that is a decimal digit, 0..9 (R18). -/
abbrev Decimal (v : Nibble) : Prop := v.toNat ≤ 9

/-- Every digit of a word is decimal. -/
abbrev Digits.AllDecimal (v : Digits) : Prop := ∀ i : Fin 10, Decimal (v.get i)

/-- The result registers hold residues (R42). -/
abbrev State.ResiduesCanonical (s : State) : Prop :=
  Canonical s.y ∧ Canonical s.s0 ∧ Canonical s.s1 ∧ Canonical s.s2 ∧ Canonical s.s3 ∧
  Canonical s.p ∧ Canonical s.q ∧ Canonical s.r ∧ Canonical s.disc ∧ Canonical s.root ∧
  Canonical s.pos1 ∧ Canonical s.pos2 ∧ Canonical s.mag1 ∧ Canonical s.mag2 ∧
  ∀ i : Fin 10, Canonical (s.c.get i)

/-- The reserved bits of STATUS read 0, and no code that is never produced appears (R24 to R27). -/
abbrev StatusFieldsLegal (w : Word) : Prop :=
  w.extractLsb' 20 12 = 0#12 ∧ w.extractLsb' 11 1 = 0#1 ∧ w.extractLsb' 7 1 = 0#1 ∧
  (errField w).toNat ≤ 7 ∧ (outcomeField w).toNat ≤ 4 ∧ (reasonField w).toNat ≤ 4

/-- The errors a command can raise, first checked first (R200, R202). -/
def errorsOf : Instr → List Err
  | .new => []
  | .add | .sub | .mul | .eq => [.noncanon]
  | .div => [.noncanon, .divZero]
  | .pow => [.noncanon, .badExp]
  | .sqrt => [.noncanon, .noRoot]
  | .check => [.invalidDigit, .unusable]
  | .synd | .decode => [.invalidDigit]

/-- The values of ERR that can stand beside an opcode field in LASTOP: of a command OK, its own errors, and ILLEGAL, where a
reserved bit was set; of a reserved opcode ILLEGAL alone (R25, R29, R83). -/
def errorsBeside (op : BitVec 4) : List Err :=
  match decodeOpc op with
  | some i => .ok :: .illegal :: errorsOf i
  | none => [.illegal]

/-- The values of ERRPOS that can stand beside an error and the opcode of its command: a position the command reads, a check
digit's position, or the operand's place, and 0 in every other case (R28). -/
def errposBeside (err op : BitVec 4) : List Nat :=
  if err = Err.invalidDigit.code then
    if op = Instr.check.opcode then [1, 2, 3, 4, 5, 6] else [1, 2, 3, 4, 5, 6, 7, 8, 9, 10]
  else if err = Err.unusable.code then [7, 8, 9, 10]
  else if err = Err.noncanon.code then
    if op = Instr.pow.opcode ∨ op = Instr.sqrt.opcode then [1] else [1, 2]
  else [0]

/-- ERR and ERRPOS are what the command named in LASTOP can report (R25, R28). -/
abbrev StatusErrorLegal (w : Word) : Prop :=
  errField w ∈ (errorsBeside (lastopField w)).map Err.code ∧
  (errposField w).toNat ∈ errposBeside (errField w) (lastopField w)

/-- OUTCOME is other than NONE exactly where DECODE ended with ERR = OK (R26), and REASON is given exactly for UNCORRECTABLE
(R27). -/
abbrev StatusOutcomeLegal (w : Word) : Prop :=
  (outcomeField w ≠ DecodeEnd.notDecoded.code ↔
    errField w = Err.ok.code ∧ lastopField w = Instr.decode.opcode) ∧
  (reasonField w ≠ Reason.noReason.code ↔ outcomeField w = DecodeEnd.uncorrectable.code)

/-- STATUS shows only values that R24 to R28 allow after a command. -/
abbrev StatusLegal (w : Word) : Prop := StatusFieldsLegal w ∧ StatusErrorLegal w ∧ StatusOutcomeLegal w

/-- The positions reported with OUTCOME = SINGLE or DOUBLE are 1..10 (R42, R39). -/
abbrev State.PositionsReported (s : State) : Prop :=
  (outcomeField s.status = DecodeEnd.single.code →
    1 ≤ s.pos1.toNat ∧ s.pos1.toNat ≤ 10 ∧ s.pos2 = 0 ∧ s.mag2 = 0) ∧
  (outcomeField s.status = DecodeEnd.double.code →
    1 ≤ s.pos1.toNat ∧ s.pos1.toNat ≤ 10 ∧ 1 ≤ s.pos2.toNat ∧ s.pos2.toNat ≤ 10)

/-- C holds decimal digits after every DECODE that ended otherwise than SINGLE (R35). -/
abbrev State.OutputDecimal (s : State) : Prop :=
  outcomeField s.status ≠ 0 → outcomeField s.status ≠ DecodeEnd.single.code → s.c.AllDecimal

/-- The invariant of the block (R42, R24 to R28, R35): STATUS is its reset value or what a command leaves, and the ghost
flag of R215 is set wherever STATUS shows an error. -/
abbrev State.Inv (s : State) : Prop :=
  s.ResiduesCanonical ∧ (s.status = 0 ∨ StatusLegal s.status) ∧ s.PositionsReported ∧ s.OutputDecimal ∧
  (errField s.status ≠ 0 → s.erred = true)

/-- The stored registers agree: every register of the map reads the same on the port (R232, the end state). -/
abbrev SameRegisters (s t : State) : Prop := ∀ reg : Reg, readReg reg s = readReg reg t

/-- Element k of a word's syndrome, the sum of i^k times the digit at position i, modulo 11 (R140, R141). -/
def syndromeOf (k : Nat) (v : Digits) : Nat :=
  (1 ^ k * v.d1.toNat + 2 ^ k * v.d2.toNat + 3 ^ k * v.d3.toNat + 4 ^ k * v.d4.toNat + 5 ^ k * v.d5.toNat +
    6 ^ k * v.d6.toNat + 7 ^ k * v.d7.toNat + 8 ^ k * v.d8.toNat + 9 ^ k * v.d9.toNat + 10 ^ k * v.d10.toNat) % 11

/-- A codeword: ten decimal digits whose syndrome is zero (R148). -/
abbrev IsCodeword (v : Digits) : Prop := v.AllDecimal ∧ ∀ k : Fin 4, syndromeOf k.val v = 0

/-- A host program ran without error when every STATUS it read had ERR = OK (R233). -/
def ranWithoutError (h : HostState) : Bool := h.statusRead.all fun w => errField w == Err.ok.code

/-! ### The quantities of DECODE, over the integers

The statements about CHECK, SYND and DECODE are written with these, from the tables and formulas of the spec, and not with
the functions the meanings call. -/

/-- S_k of a word, as an integer (R161). -/
def syn (v : Digits) (k : Nat) : Int := syndromeOf k v

/-- P = S1² - S0·S2, modulo 11 (R163). -/
def coefP (v : Digits) : Int := (syn v 1 ^ 2 - syn v 0 * syn v 2) % 11

/-- Q = S0·S3 - S1·S2, modulo 11 (R163). -/
def coefQ (v : Digits) : Int := (syn v 0 * syn v 3 - syn v 1 * syn v 2) % 11

/-- R = S2² - S1·S3, modulo 11 (R163). -/
def coefR (v : Digits) : Int := (syn v 2 ^ 2 - syn v 1 * syn v 3) % 11

/-- The discriminant Q² - 4·P·R, modulo 11 (R170). -/
def discOf (v : Digits) : Int := (coefQ v ^ 2 - 4 * coefP v * coefR v) % 11

/-- The syndrome is zero (R162). -/
abbrev SyndromeZero (v : Digits) : Prop := syn v 0 = 0 ∧ syn v 1 = 0 ∧ syn v 2 = 0 ∧ syn v 3 = 0

/-- The single-error branch of a word whose syndrome is not zero (R164). -/
abbrev SingleErrorBranch (v : Digits) : Prop :=
  ¬ SyndromeZero v ∧ coefP v = 0 ∧ coefQ v = 0 ∧ coefR v = 0

/-- The double-error branch of a word whose syndrome is not zero (R164). -/
abbrev DoubleErrorBranch (v : Digits) : Prop :=
  ¬ SyndromeZero v ∧ ¬ (coefP v = 0 ∧ coefQ v = 0 ∧ coefR v = 0)

/-- `root` is the smaller square root of the discriminant: 0 to 5, since the other root is 11 - root (R106, R170). -/
abbrev SmallerRoot (v : Digits) (root : Nat) : Prop := root ≤ 5 ∧ ((root : Int) ^ 2) % 11 = discOf v

/-- x1 and x2 are the quotients of step 5b: 2·P·x1 = root - Q and 2·P·x2 = -Q - root, modulo 11 (R171). -/
abbrev RootPositions (v : Digits) (root x1 x2 : Nat) : Prop :=
  x1 ≤ 10 ∧ x2 ≤ 10 ∧ coefP v ≠ 0 ∧
  (2 * coefP v * x1) % 11 = (root - coefQ v) % 11 ∧ (2 * coefP v * x2) % 11 = (-coefQ v - root) % 11

/-- m1 and m2 are the magnitudes of step 5d: (x1 - x2)·m2 = x1·S0 - S1 and m1 = S0 - m2, modulo 11 (R173). -/
abbrev MagnitudesAt (v : Digits) (x1 x2 m1 m2 : Nat) : Prop :=
  m1 ≤ 10 ∧ m2 ≤ 10 ∧
  (((x1 : Int) - x2) * m2) % 11 = (x1 * syn v 0 - syn v 1) % 11 ∧ (m1 : Int) = (syn v 0 - m2) % 11

/-- The corrected digit at a position: (old + (11 - magnitude)) mod 11 (R174). -/
def correctedDigit (v : Digits) (i : Fin 10) (m : Nat) : Nat := ((v.get i).toNat + (11 - m)) % 11

/-- The registers of DECODE after step 1: the syndrome, C = D, and 0 elsewhere in its write set (R160, R161). -/
def State.decodeBase (s : State) : State :=
  { s with
    s0 := BitVec.ofInt 4 (syn s.d 0), s1 := BitVec.ofInt 4 (syn s.d 1)
    s2 := BitVec.ofInt 4 (syn s.d 2), s3 := BitVec.ofInt 4 (syn s.d 3)
    p := 0, q := 0, r := 0, disc := 0, root := 0, pos1 := 0, pos2 := 0, mag1 := 0, mag2 := 0, c := s.d }

/-- The registers of DECODE after step 3: P, Q and R as well (R163). -/
def State.decodeLocated (s : State) : State :=
  { s.decodeBase with
    p := BitVec.ofInt 4 (coefP s.d), q := BitVec.ofInt 4 (coefQ s.d), r := BitVec.ofInt 4 (coefR s.d) }

/-- The registers of DECODE after step 5a with a root: DISC and ROOT as well (R170). -/
def State.decodeRooted (s : State) (root : Nat) : State :=
  { s.decodeLocated with disc := BitVec.ofInt 4 (discOf s.d), root := BitVec.ofNat 4 root }

/-- The check value of lane k over the payload D[1..6], with the weights of the table of R142. -/
def checkValue (v : Digits) (k : Fin 4) : Nat :=
  let x := fun i : Fin 10 => (v.get i).toNat
  match k with
  | 0 => (4 * x 0 + 10 * x 1 + 9 * x 2 + 2 * x 3 + 1 * x 4 + 7 * x 5) % 11
  | 1 => (7 * x 0 + 8 * x 1 + 7 * x 2 + 1 * x 3 + 9 * x 4 + 6 * x 5) % 11
  | 2 => (9 * x 0 + 1 * x 1 + 7 * x 2 + 8 * x 3 + 7 * x 4 + 7 * x 5) % 11
  | 3 => (1 * x 0 + 2 * x 1 + 9 * x 2 + 10 * x 3 + 4 * x 4 + 1 * x 5) % 11

/-- The number of positions in which two words differ. -/
def distance (v w : Digits) : Nat := (positions.filter fun i => v.get i != w.get i).length

/-- The first position of a word, counted from 0, that holds 10..15 is i (R28). -/
abbrev FirstBadDigit (v : Digits) (i : Fin 10) : Prop :=
  10 ≤ (v.get i).toNat ∧ ∀ j : Fin 10, j < i → Decimal (v.get j)

/-- A STATUS word with LASTOP, ERRPOS and ERR, and neither outcome nor reason, at the places of R24. -/
def errorStatus (lastop : BitVec 4) (errpos err : Nat) : Word :=
  (lastop.setWidth 32) <<< 16 ||| BitVec.ofNat 32 (errpos * 4096) ||| BitVec.ofNat 32 err

/-- The reserved indices of R66. -/
abbrev ReservedIndex (idx : RegIndex) : Prop :=
  idx = 0x0F ∨ (0x14 ≤ idx.toNat ∧ idx.toNat ≤ 0x1F) ∨ (0x2A ≤ idx.toNat ∧ idx.toNat ≤ 0x2F) ∨ 0x3A ≤ idx.toNat

/-- The indices of the read-only registers of R65. -/
abbrev ReadOnlyIndex (idx : RegIndex) : Prop :=
  idx = 0x00 ∨ idx = 0x02 ∨ (0x05 ≤ idx.toNat ∧ idx.toNat ≤ 0x0E) ∨ (0x10 ≤ idx.toNat ∧ idx.toNat ≤ 0x13) ∨
  (0x30 ≤ idx.toNat ∧ idx.toNat ≤ 0x39)

/-- The illegal command words of R83. -/
abbrev IllegalWord (w : Word) : Prop :=
  w.extractLsb' 4 28 ≠ 0 ∨ w.extractLsb' 0 4 = 0x0 ∨ 0xC ≤ (w.extractLsb' 0 4).toNat

end Sys2Proof.Machine
end

