-- ==== Sys2Proof/Certificates/Slice0/Obligations.lean ====
section
/-! DEFINITION. The statements about the block, from the numbered rules of spec/. Each is listed in OBLIGATIONS.json.
The block has no memory (R61), so no frame has a clause about memory: a next state written as an update of the state
before says of every register that the update does not name that it is unchanged. The fields `pending`, `returned` and
`erred` are the model's own (log entries 1, 2 and 3): the port's order of R60, the word a read returns (R62), and the ghost
flag that R215 asks for. -/

open Sys2Proof Sys2Proof.Machine

/-! ### Command words -/

/-- The opcode map of R82, word by word: eleven words decode, and a word with a reserved opcode or a reserved bit does
not (words of 95_test_vectors, V-ENC). -/
def Obligations.OpcodeMapWordsDecode : Prop :=
  decode 0x00000001 = .ok .new ∧ decode 0x00000002 = .ok .add ∧ decode 0x00000003 = .ok .sub ∧
  decode 0x00000004 = .ok .mul ∧ decode 0x00000005 = .ok .div ∧ decode 0x00000006 = .ok .pow ∧
  decode 0x00000007 = .ok .sqrt ∧ decode 0x00000008 = .ok .eq ∧ decode 0x00000009 = .ok .check ∧
  decode 0x0000000A = .ok .synd ∧ decode 0x0000000B = .ok .decode ∧
  decode 0x00000000 = .error .reservedOpcode ∧ decode 0x0000000C = .error .reservedOpcode ∧
  decode 0x0000000D = .error .reservedOpcode ∧ decode 0x0000000E = .error .reservedOpcode ∧
  decode 0x0000000F = .error .reservedOpcode ∧
  decode 0x00000012 = .error .reservedBits ∧ decode 0x80000002 = .error .reservedBits

/-- Decode and encode agree: every command's word decodes to it, and no other word of the 2^32 decodes to it. -/
def Obligations.DecodeAndEncodeAgree : Prop :=
  (∀ i : Instr, decode (encode i) = .ok i) ∧ ∀ (w : Word) (i : Instr), decode w = .ok i → w = encode i

/-- R83: a word with a reserved opcode or a reserved bit changes no register other than STATUS, which becomes ILLEGAL with
LASTOP = w[3:0]; every other word is one of the eleven command words. -/
def Obligations.IllegalWordChangesStatusAlone : Prop :=
  (∀ (s : State) (rest : List Event) (w : Word), s.pending = .write 0x01 w :: rest → IllegalWord w →
    step s = .next { s with
      pending := rest, status := errorStatus (w.extractLsb' 0 4) 0 7, erred := true }) ∧
  ∀ w : Word, ¬ IllegalWord w → ∃ i : Instr, w = encode i

/-! ### The port -/

/-- R23: a step at a write of a command's word to CMD runs that command on the state without that write; CMD stores
nothing and reads 0. -/
def Obligations.StepRunsTheDecodedCommand : Prop :=
  (∀ (s : State) (rest : List Event) (w : Word) (i : Instr),
    s.pending = .write 0x01 w :: rest → decode w = .ok i → step s = exec i { s with pending := rest }) ∧
  ∀ s : State, busRead 0x01 s = 0

/-- R62: a read transaction returns the register map's value at its index and changes nothing else. That the value is
kept in `returned` is the model's choice (log entry 2). -/
def Obligations.ReadReturnsTheRegisterMap : Prop :=
  ∀ (s : State) (rest : List Event) (idx : RegIndex), s.pending = .read idx :: rest →
    ∃ v : Word, step s = .next { s with pending := rest, returned := v :: s.returned } ∧
      (idx = 0x00 → v = 0x01060A0B) ∧ (idx = 0x01 → v = 0) ∧ (idx = 0x02 → v = s.status) ∧
      (idx = 0x03 → v = s.a) ∧ (idx = 0x04 → v = s.b) ∧ (idx = 0x05 → v.toNat = s.y.toNat) ∧
      (idx = 0x06 → v.toNat = s.s0.toNat) ∧ (idx = 0x07 → v.toNat = s.s1.toNat) ∧
      (idx = 0x08 → v.toNat = s.s2.toNat) ∧ (idx = 0x09 → v.toNat = s.s3.toNat) ∧
      (idx = 0x0A → v.toNat = s.p.toNat) ∧ (idx = 0x0B → v.toNat = s.q.toNat) ∧
      (idx = 0x0C → v.toNat = s.r.toNat) ∧ (idx = 0x0D → v.toNat = s.disc.toNat) ∧
      (idx = 0x0E → v.toNat = s.root.toNat) ∧ (idx = 0x10 → v.toNat = s.pos1.toNat) ∧
      (idx = 0x11 → v.toNat = s.pos2.toNat) ∧ (idx = 0x12 → v.toNat = s.mag1.toNat) ∧
      (idx = 0x13 → v.toNat = s.mag2.toNat) ∧
      (∀ i : Fin 10, idx.toNat = 0x20 + i.val → v.toNat = (s.d.get i).toNat) ∧
      (∀ i : Fin 10, idx.toNat = 0x30 + i.val → v.toNat = (s.c.get i).toNat) ∧
      (ReservedIndex idx → v = 0)

/-- R63: a write transaction stores A and B whole and bits [3:0] of D[i], runs `execute_command` at CMD, and has no effect
at any other index. -/
def Obligations.WriteStoresOrRuns : Prop :=
  ∀ (s : State) (rest : List Event) (idx : RegIndex) (w : Word), s.pending = .write idx w :: rest →
    (idx = 0x01 → step s = executeCommand w { s with pending := rest }) ∧
    (idx = 0x03 → step s = .next { s with pending := rest, a := w }) ∧
    (idx = 0x04 → step s = .next { s with pending := rest, b := w }) ∧
    (∀ i : Fin 10, idx.toNat = 0x20 + i.val →
      ∃ t, step s = .next t ∧ t = { s with pending := rest, d := t.d } ∧
        (t.d.get i).toNat = w.toNat % 16 ∧ ∀ j : Fin 10, j ≠ i → t.d.get j = s.d.get j) ∧
    (idx ≠ 0x01 → idx ≠ 0x03 → idx ≠ 0x04 → ¬ (0x20 ≤ idx.toNat ∧ idx.toNat ≤ 0x29) →
      step s = .next { s with pending := rest })

/-- R65: a write to a read-only register has no effect, raises no error, and leaves STATUS unchanged. -/
def Obligations.ReadOnlyRegistersIgnoreWrites : Prop :=
  ∀ (s : State) (rest : List Event) (idx : RegIndex) (w : Word), s.pending = .write idx w :: rest →
    ReadOnlyIndex idx → step s = .next { s with pending := rest }

/-- R66: a reserved index reads 0 and ignores writes, without an error. -/
def Obligations.ReservedIndicesReadZeroIgnoreWrites : Prop :=
  ∀ (s : State) (rest : List Event) (idx : RegIndex), ReservedIndex idx →
    (s.pending = .read idx :: rest →
      step s = .next { s with pending := rest, returned := 0 :: s.returned }) ∧
    ∀ w : Word, s.pending = .write idx w :: rest → step s = .next { s with pending := rest }

/-- 20_memory, "R64": a read right after a write of a read-write register returns what was written, 32 bits for A and B
and 4 bits for D[i] (the spec marks the rule as derived). -/
def Obligations.ReadAfterWriteReturnsTheValue : Prop :=
  ∀ (s : State) (rest : List Event) (idx : RegIndex) (w : Word),
    s.pending = .write idx w :: .read idx :: rest →
    idx = 0x03 ∨ idx = 0x04 ∨ (0x20 ≤ idx.toNat ∧ idx.toNat ≤ 0x29) →
    ∃ t u : State, step s = .next t ∧ step t = .next u ∧ u.pending = rest ∧
      u.returned = (if idx.toNat < 0x20 then w else BitVec.ofNat 32 (w.toNat % 16)) :: s.returned

/-- 60_exceptions, "R209": the only events that change a register are a write of A, B, D or CMD (here, through the platform's
bus as well) and reset. Every other event leaves every register as it was. -/
def Obligations.OnlyWritesAndResetChangeRegisters : Prop :=
  ∀ (s t : State) (e : Event) (rest : List Event), s.pending = e :: rest → disturbs e = false →
    step s = .next t → SameRegisters s t ∧ t.pending = rest ∧ t.erred = s.erred

/-- 20_memory, "R60": every transaction of the port and every reset completes: the step answers a next state, with exactly that
event taken. -/
def Obligations.EveryTransactionCompletes : Prop :=
  ∀ (s : State) (e : Event) (rest : List Event), s.pending = e :: rest →
    (∃ idx, e = .read idx) ∨ (∃ idx w, e = .write idx w) ∨ e = .reset →
    ∃ t, step s = .next t ∧ t.pending = rest

/-- 70_reset_and_hazards sections 1 and 5, "R221" and "R232": with no transaction to deliver the block waits. That waiting is a step that changes nothing is the
model's choice (log entry 1). -/
def Obligations.BlockWaitsWithoutEvents : Prop :=
  ∀ s : State, s.pending = [] → step s = .next s

/-- 20_memory section 2, "R69" and "R68": register index k is at byte address BASE_ADDR + 4·k, BASE_ADDR is a multiple of
1024, an aligned 32-bit access to the window is the port transaction at k, and every other platform access is refused.
That a platform write's bytes are the adapter's word in one of two byte orders (BUS_ENDIAN) is the model's presumption,
log entry 9, and that an access outside the window is refused too is log entry 13. -/
def Obligations.PlatformAccessIsAlignedWordOrRefused : Prop :=
  1024 ∣ Config.baseAddr ∧
  (∀ (s : State) (rest : List Event) (k : RegIndex),
    s.pending = .platformRead (Config.baseAddr + 4 * k.toNat) 4 :: rest →
    step s = step { s with pending := .read k :: rest }) ∧
  (∀ (s : State) (rest : List Event) (k : RegIndex) (w : Word),
    s.pending = .platformWrite (Config.baseAddr + 4 * k.toNat) (adapterBytes Config.busEndian w) :: rest →
    step s = step { s with pending := .write k w :: rest }) ∧
  (∀ (s : State) (rest : List Event) (addr width : Nat),
    s.pending = .platformRead addr width :: rest →
    width ≠ 4 ∨ (∀ k : RegIndex, addr ≠ Config.baseAddr + 4 * k.toNat) →
    step s = .refused (.platformAccess addr width)) ∧
  ∀ (s : State) (rest : List Event) (addr : Nat) (bytes : List Byte),
    s.pending = .platformWrite addr bytes :: rest →
    bytes.length ≠ 4 ∨ (∀ k : RegIndex, addr ≠ Config.baseAddr + 4 * k.toNat) →
    step s = .refused (.platformAccess addr bytes.length)

/-- 70_reset_and_hazards, "R226", with log entry 11: the events of other hosts that write neither A, B, D nor CMD and assert no
reset do not change what a host's own sequence does: where the interleaved run is not refused, the host's own events
alone lead to the same registers. -/
def Obligations.UndisturbedSequenceRunsAsIfAlone : Prop :=
  ∀ (me : Nat) (events : List (Nat × Event)) (s t : State),
    runExclusive me events s = .next t →
    ∃ u, runExclusive me (events.filter fun e => e.1 == me) s = .next u ∧ SameRegisters t u ∧ t.erred = u.erred

/-! ### Reset -/

/-- R220: reset sets ID to 0x01060A0B and every other register to 0, whatever the state. -/
def Obligations.ResetSetsEveryRegister : Prop :=
  ∀ (s : State) (rest : List Event), s.pending = .reset :: rest →
    ∃ t, step s = .next t ∧ readReg .id t = 0x01060A0B ∧ ∀ reg : Reg, reg ≠ .id → readReg reg t = 0

/-- R43: in the reset state ID reads 0x01060A0B, every other register reads 0, and DECODE, on the all-zero word, ends
NO_ERROR; every command completes on it. -/
def Obligations.ResetStateIsZeroAndLegal : Prop :=
  readReg .id State.reset = 0x01060A0B ∧ (∀ reg : Reg, reg ≠ .id → readReg reg State.reset = 0) ∧
  exec .decode State.reset = .next { State.reset with status := 0x000B0010 } ∧
  ∀ i : Instr, ∃ t, exec i State.reset = .next t

/-- The reset state meets the invariant. -/
def Obligations.ResetMeetsTheInvariant : Prop := State.reset.Inv

/-- 10_state, "R42" with the STATUS values of R24 to R28 and the digits of R35: every step keeps the invariant, from every state that
meets it. -/
def Obligations.StepKeepsTheInvariant : Prop :=
  ∀ s t : State, s.Inv → step s = .next t → t.Inv

/-! ### STATUS -/

/-- 10_state section 3: after every CMD write, legal or not, STATUS holds only values that R24 to R28 allow, whatever it
held before: the codes that are produced, each error beside a command that raises it (60_exceptions section 1), ERRPOS in
the range of its error, an outcome exactly where DECODE ended without an error, and a reason exactly for UNCORRECTABLE. -/
def Obligations.EveryCommandWritesLegalStatus : Prop :=
  ∀ (w : Word) (s t : State), executeCommand w s = .next t → StatusLegal t.status

/-- R29: LASTOP holds bits [3:0] of the last word written to CMD, including when that word was illegal. -/
def Obligations.LastopHoldsTheOpcodeField : Prop :=
  ∀ (s : State) (rest : List Event) (w : Word), s.pending = .write 0x01 w :: rest →
    ∃ t, step s = .next t ∧ lastopField t.status = w.extractLsb' 0 4

/-- 10_state, "R30": no command reads STATUS: with any other STATUS before it, a CMD write ends in the same state. -/
def Obligations.NoCommandReadsStatus : Prop :=
  ∀ (w : Word) (s : State) (v : Word), executeCommand w { s with status := v } = executeCommand w s

/-- 60_exceptions, "R215": the model's ghost flag is set by a command that ends with ERR other than OK and is never cleared (log entry 3). -/
def Obligations.GhostFlagRecordsErrors : Prop :=
  ∀ s t : State, step s = .next t →
    (s.erred = true → t.erred = true) ∧
    ∀ (w : Word) (rest : List Event), s.pending = .write 0x01 w :: rest →
      t.erred = (s.erred || errField t.status != 0)

/-! ### The modular arithmetic unit -/

/-- R110: NEW writes the floor residue of A read as a signed integer; every A is legal. -/
def Obligations.NewNormalisesSignedA : Prop :=
  decode 0x00000001 = .ok .new ∧
  ∀ s : State, exec .new s = .next { s with
    y := BitVec.ofNat 4 (s.a.toInt % 11).toNat, status := 0x00010000 }

/-- R111: ADD writes the residue of the sum; a non-canonical A, else a non-canonical B, is NONCANON. -/
def Obligations.AddGivesResidueOrNoncanon : Prop :=
  decode 0x00000002 = .ok .add ∧ ∀ s : State,
    (s.a.toNat < 11 → s.b.toNat < 11 → exec .add s = .next { s with
      y := BitVec.ofNat 4 ((s.a.toNat + s.b.toNat) % 11), status := 0x00020000 }) ∧
    (11 ≤ s.a.toNat → exec .add s = .next { s with y := 0, status := 0x00021005, erred := true }) ∧
    (s.a.toNat < 11 → 11 ≤ s.b.toNat →
      exec .add s = .next { s with y := 0, status := 0x00022005, erred := true })

/-- R112: SUB writes the residue of the difference; NONCANON as ADD. -/
def Obligations.SubGivesResidueOrNoncanon : Prop :=
  decode 0x00000003 = .ok .sub ∧ ∀ s : State,
    (s.a.toNat < 11 → s.b.toNat < 11 → exec .sub s = .next { s with
      y := BitVec.ofNat 4 ((s.a.toNat + (11 - s.b.toNat)) % 11), status := 0x00030000 }) ∧
    (11 ≤ s.a.toNat → exec .sub s = .next { s with y := 0, status := 0x00031005, erred := true }) ∧
    (s.a.toNat < 11 → 11 ≤ s.b.toNat →
      exec .sub s = .next { s with y := 0, status := 0x00032005, erred := true })

/-- R113: MUL writes the residue of the product; NONCANON as ADD. -/
def Obligations.MulGivesResidueOrNoncanon : Prop :=
  decode 0x00000004 = .ok .mul ∧ ∀ s : State,
    (s.a.toNat < 11 → s.b.toNat < 11 → exec .mul s = .next { s with
      y := BitVec.ofNat 4 ((s.a.toNat * s.b.toNat) % 11), status := 0x00040000 }) ∧
    (11 ≤ s.a.toNat → exec .mul s = .next { s with y := 0, status := 0x00041005, erred := true }) ∧
    (s.a.toNat < 11 → 11 ≤ s.b.toNat →
      exec .mul s = .next { s with y := 0, status := 0x00042005, erred := true })

/-- R114: DIV writes the one residue k with k·B = A modulo 11; NONCANON first, then DIV_ZERO when B = 0, whatever A is. -/
def Obligations.DivGivesTheQuotientOrError : Prop :=
  decode 0x00000005 = .ok .div ∧ ∀ s : State,
    (s.a.toNat < 11 → s.b.toNat < 11 → s.b ≠ 0 →
      ∃ k : Nat, k < 11 ∧ k * s.b.toNat % 11 = s.a.toNat ∧
        (∀ j : Nat, j < 11 → j * s.b.toNat % 11 = s.a.toNat → j = k) ∧
        exec .div s = .next { s with y := BitVec.ofNat 4 k, status := 0x00050000 }) ∧
    (s.a.toNat < 11 → s.b = 0 → exec .div s = .next { s with y := 0, status := 0x00050001, erred := true }) ∧
    (11 ≤ s.a.toNat → exec .div s = .next { s with y := 0, status := 0x00051005, erred := true }) ∧
    (s.a.toNat < 11 → 11 ≤ s.b.toNat →
      exec .div s = .next { s with y := 0, status := 0x00052005, erred := true })

/-- R115: POW writes A^n modulo 11 for every exponent n = B from 1 to 2^32 - 1; NONCANON on A, then BAD_EXP when B = 0. -/
def Obligations.PowGivesThePowerOrError : Prop :=
  decode 0x00000006 = .ok .pow ∧ ∀ s : State,
    (s.a.toNat < 11 → s.b ≠ 0 → exec .pow s = .next { s with
      y := BitVec.ofNat 4 (s.a.toNat ^ s.b.toNat % 11), status := 0x00060000 }) ∧
    (s.a.toNat < 11 → s.b = 0 → exec .pow s = .next { s with y := 0, status := 0x00060006, erred := true }) ∧
    (11 ≤ s.a.toNat → exec .pow s = .next { s with y := 0, status := 0x00061005, erred := true })

/-- R116: SQRT writes the smallest root of A; NONCANON on A, then NO_ROOT when A is 2, 6, 7, 8 or 10. -/
def Obligations.SqrtGivesTheSmallestRootOrError : Prop :=
  decode 0x00000007 = .ok .sqrt ∧ ∀ s : State,
    (s.a.toNat < 11 → s.a.toNat ∉ [2, 6, 7, 8, 10] →
      ∃ x : Nat, x ≤ 5 ∧ x * x % 11 = s.a.toNat ∧ (∀ z : Nat, z < x → z * z % 11 ≠ s.a.toNat) ∧
        exec .sqrt s = .next { s with y := BitVec.ofNat 4 x, status := 0x00070000 }) ∧
    (s.a.toNat ∈ [2, 6, 7, 8, 10] →
      exec .sqrt s = .next { s with y := 0, status := 0x00070002, erred := true }) ∧
    (11 ≤ s.a.toNat → exec .sqrt s = .next { s with y := 0, status := 0x00071005, erred := true })

/-- R117: EQ writes 1 when the canonical operands are equal and 0 otherwise; NONCANON as ADD. -/
def Obligations.EqComparesResiduesOrNoncanon : Prop :=
  decode 0x00000008 = .ok .eq ∧ ∀ s : State,
    (s.a.toNat < 11 → s.b.toNat < 11 → exec .eq s = .next { s with
      y := if s.a = s.b then 1 else 0, status := 0x00080000 }) ∧
    (11 ≤ s.a.toNat → exec .eq s = .next { s with y := 0, status := 0x00081005, erred := true }) ∧
    (s.a.toNat < 11 → 11 ≤ s.b.toNat →
      exec .eq s = .next { s with y := 0, status := 0x00082005, erred := true })

/-- 40_modular_arithmetic section 3, "R119": the residues with radd and rmul are a field, and rsub, rdiv and rsqrt agree with
it (the spec marks the rule as derived). -/
def Obligations.ResiduesFormAField : Prop :=
  ∀ a b c : Residue, Canonical a → Canonical b → Canonical c →
    (Canonical (radd a b) ∧ Canonical (rmul a b)) ∧
    (radd a b = radd b a ∧ radd (radd a b) c = radd a (radd b c)) ∧
    (rmul a b = rmul b a ∧ rmul (rmul a b) c = rmul a (rmul b c)) ∧
    rmul a (radd b c) = radd (rmul a b) (rmul a c) ∧
    (radd a 0 = a ∧ rmul a 1 = a ∧ radd a (rneg a) = 0 ∧ rsub a b = radd a (rneg b)) ∧
    (b ≠ 0 → ∃ q i : Residue, rdiv a b = some q ∧ rdiv 1 b = some i ∧ q = rmul a i ∧ rmul q b = a ∧ rmul i b = 1) ∧
    (rdiv a 0 = none ∧ (b ≠ 0 → rdiv 0 b = some 0)) ∧
    ∀ x : Residue, rsqrt a = some x → rmul x x = a

/-! ### The syndrome accumulator -/

/-- R146: CHECK writes the payload and its four check digits to C; INVALID_DIGIT at the lowest position 1..6 that holds
10..15 and UNUSABLE at the first check digit of 10 zero C; D[7..10] are not read. -/
def Obligations.CheckWritesTheCodewordOrError : Prop :=
  decode 0x00000009 = .ok .check ∧ ∀ s : State,
    ((∀ j : Fin 10, j < 6 → Decimal (s.d.get j)) → (∀ k : Fin 4, checkValue s.d k ≠ 10) →
      exec .check s = .next { s with
        status := 0x00090000
        c := { s.d with
          d7 := BitVec.ofNat 4 (checkValue s.d 0), d8 := BitVec.ofNat 4 (checkValue s.d 1)
          d9 := BitVec.ofNat 4 (checkValue s.d 2), d10 := BitVec.ofNat 4 (checkValue s.d 3) } }) ∧
    (∀ i : Fin 10, i < 6 → FirstBadDigit s.d i →
      exec .check s = .next { s with
        c := Digits.zero, status := errorStatus 9 (i.val + 1) 3, erred := true }) ∧
    (∀ k : Fin 4, (∀ j : Fin 10, j < 6 → Decimal (s.d.get j)) → checkValue s.d k = 10 →
      (∀ j : Fin 4, j < k → checkValue s.d j ≠ 10) →
      exec .check s = .next { s with
        c := Digits.zero, status := errorStatus 9 (7 + k.val) 4, erred := true })

/-- R147: SYND writes the four power sums of the received word to S0..S3, S_k weighted by i^k; INVALID_DIGIT at the lowest
position that holds 10..15 zeroes S0..S3. -/
def Obligations.SyndWritesTheSyndromeOrError : Prop :=
  decode 0x0000000A = .ok .synd ∧ ∀ s : State,
    (s.d.AllDecimal → exec .synd s = .next { s with
      s0 := BitVec.ofNat 4 (syndromeOf 0 s.d), s1 := BitVec.ofNat 4 (syndromeOf 1 s.d)
      s2 := BitVec.ofNat 4 (syndromeOf 2 s.d), s3 := BitVec.ofNat 4 (syndromeOf 3 s.d)
      status := 0x000A0000 }) ∧
    (∀ i : Fin 10, FirstBadDigit s.d i → exec .synd s = .next { s with
      s0 := 0, s1 := 0, s2 := 0, s3 := 0, status := errorStatus 10 (i.val + 1) 3, erred := true })

/-- 41_syndrome_accumulator, "R148": every C that CHECK writes on success is a codeword, and DECODE of it ends NO_ERROR (the spec marks
the enumeration behind the rule as derived). -/
def Obligations.CheckedWordsAreCodewords : Prop :=
  ∀ s t : State, exec .check s = .next t → errField t.status = 0 →
    IsCodeword t.c ∧
    ∃ u, exec .decode { t with d := t.c } = .next u ∧ outcomeField u.status = DecodeEnd.noError.code ∧ u.c = t.c

/-- 41_syndrome_accumulator, "R150": changing the digit at position i + 1 from x to y adds (y - x)·(i + 1)^k to S_k, modulo 11 (the
spec marks the rule as derived). -/
def Obligations.SyndromeIsLinearInEachDigit : Prop :=
  ∀ (s t t' : State) (i : Fin 10) (y : Nibble), s.d.AllDecimal → Decimal y →
    exec .synd s = .next t → exec .synd { s with d := s.d.set i y } = .next t' →
    let e : Int := (y.toNat : Int) - (s.d.get i).toNat
    (t'.s0.toNat : Int) = (t.s0.toNat + e) % 11 ∧
    (t'.s1.toNat : Int) = (t.s1.toNat + e * (i.val + 1)) % 11 ∧
    (t'.s2.toNat : Int) = (t.s2.toNat + e * (i.val + 1) ^ 2) % 11 ∧
    (t'.s3.toNat : Int) = (t.s3.toNat + e * (i.val + 1) ^ 3) % 11

/-! ### DECODE -/

/-- R161: DECODE checks all ten digits first, and an invalid digit zeroes its whole write set; else S0..S3 are the values
SYND gives, the syndrome modulo 11. -/
def Obligations.DecodeChecksDigitsAndLoadsTheSyndrome : Prop :=
  (∀ (s : State) (i : Fin 10), FirstBadDigit s.d i →
    exec .decode s = .next { s with
      s0 := 0, s1 := 0, s2 := 0, s3 := 0, p := 0, q := 0, r := 0, disc := 0, root := 0,
      pos1 := 0, pos2 := 0, mag1 := 0, mag2 := 0, c := Digits.zero
      status := errorStatus 11 (i.val + 1) 3, erred := true }) ∧
  ∀ s : State, s.d.AllDecimal → ∃ t u, exec .decode s = .next t ∧ exec .synd s = .next u ∧
    t.s0 = u.s0 ∧ t.s1 = u.s1 ∧ t.s2 = u.s2 ∧ t.s3 = u.s3 ∧
    t.s0.toNat = syndromeOf 0 s.d ∧ t.s1.toNat = syndromeOf 1 s.d ∧
    t.s2.toNat = syndromeOf 2 s.d ∧ t.s3.toNat = syndromeOf 3 s.d

/-- R162: a zero syndrome ends NO_ERROR, with C = D and 0 in the other result registers. -/
def Obligations.ZeroSyndromeEndsNoError : Prop :=
  ∀ s : State, s.d.AllDecimal → SyndromeZero s.d →
    exec .decode s = .next { s.decodeBase with status := 0x000B0010 }

/-- R163: with a syndrome other than zero, P, Q and R are S1² - S0·S2, S0·S3 - S1·S2 and S2² - S1·S3. -/
def Obligations.DecodeWritesTheCoefficients : Prop :=
  ∀ s : State, s.d.AllDecimal → ¬ SyndromeZero s.d →
    ∃ t, exec .decode s = .next t ∧ (t.p.toNat : Int) = coefP s.d ∧ (t.q.toNat : Int) = coefQ s.d ∧
      (t.r.toNat : Int) = coefR s.d

/-- 42_error_locator_solver step 4a ("R165"): in the single-error branch, S0 = 0 ends UNCORRECTABLE with DIVISION_ERROR, and that is
the branch of the syndromes [0, 0, 0, x] with x ≠ 0 (the spec marks the latter as derived). -/
def Obligations.SingleBranchDivisionError : Prop :=
  ∀ s : State, s.d.AllDecimal → SingleErrorBranch s.d → syn s.d 0 = 0 →
    exec .decode s = .next { s.decodeLocated with status := 0x000B0140 } ∧
    syn s.d 1 = 0 ∧ syn s.d 2 = 0 ∧ syn s.d 3 ≠ 0

/-- 42_error_locator_solver step 4c ("R167"): in the single-error branch, S1 = 0 with S0 ≠ 0 ends UNCORRECTABLE with POSITION_ZERO, and
the syndrome is [x, 0, 0, 0] (the spec marks the latter as derived). -/
def Obligations.SingleBranchPositionZero : Prop :=
  ∀ s : State, s.d.AllDecimal → SingleErrorBranch s.d → syn s.d 0 ≠ 0 → syn s.d 1 = 0 →
    exec .decode s = .next { s.decodeLocated with status := 0x000B0240 } ∧
    syn s.d 2 = 0 ∧ syn s.d 3 = 0

/-- R169 with steps 4a to 4d: position i + 1 = S1 / S0 and magnitude S0 end SINGLE, C holds D with that one digit replaced
by digit - S0 modulo 11, which may be 10, and DISC and ROOT are 0. -/
def Obligations.SingleBranchCorrectsOneDigit : Prop :=
  ∀ (s : State) (i : Fin 10), s.d.AllDecimal → SingleErrorBranch s.d → syn s.d 0 ≠ 0 →
    ((i.val + 1 : Int) * syn s.d 0) % 11 = syn s.d 1 →
    exec .decode s = .next { s.decodeLocated with
      status := 0x000B0020
      c := s.d.set i (BitVec.ofInt 4 (((s.d.get i).toNat - syn s.d 0) % 11))
      pos1 := BitVec.ofNat 4 (i.val + 1), mag1 := BitVec.ofInt 4 (syn s.d 0) }

/-- R170: in the double-error branch DISC is Q² - 4·P·R; without a square root DECODE ends UNCORRECTABLE with
NO_VALID_ROOTS, ROOT = 0, and that is for a discriminant of 2, 6, 7, 8 or 10; else ROOT is the smaller root. -/
def Obligations.DoubleBranchTakesTheRoot : Prop :=
  ∀ s : State, s.d.AllDecimal → DoubleErrorBranch s.d →
    (discOf s.d ∈ [2, 6, 7, 8, 10] → exec .decode s = .next { s.decodeLocated with
      disc := BitVec.ofInt 4 (discOf s.d), status := 0x000B0340 }) ∧
    (discOf s.d ∉ [2, 6, 7, 8, 10] → ∃ (root : Nat) (t : State), SmallerRoot s.d root ∧
      exec .decode s = .next t ∧ t.root.toNat = root ∧ (t.disc.toNat : Int) = discOf s.d)

/-- 42_error_locator_solver step 5b ("R171"): P = 0 in the double-error branch ends UNCORRECTABLE with DIVISION_ERROR. -/
def Obligations.DoubleBranchDivisionByZeroP : Prop :=
  ∀ (s : State) (root : Nat), s.d.AllDecimal → DoubleErrorBranch s.d → SmallerRoot s.d root →
    coefP s.d = 0 → exec .decode s = .next { s.decodeRooted root with status := 0x000B0140 }

/-- R172: after step 5b, a position of 0 ends UNCORRECTABLE with POSITION_ZERO, before the two positions are compared. -/
def Obligations.DoubleBranchPositionZero : Prop :=
  ∀ (s : State) (root x1 x2 : Nat), s.d.AllDecimal → DoubleErrorBranch s.d → SmallerRoot s.d root →
    RootPositions s.d root x1 x2 → x1 = 0 ∨ x2 = 0 →
    exec .decode s = .next { s.decodeRooted root with status := 0x000B0240 }

/-- 42_error_locator_solver step 5d ("R173"): two equal positions other than 0 end UNCORRECTABLE with DIVISION_ERROR. -/
def Obligations.DoubleBranchEqualPositions : Prop :=
  ∀ (s : State) (root x1 x2 : Nat), s.d.AllDecimal → DoubleErrorBranch s.d → SmallerRoot s.d root →
    RootPositions s.d root x1 x2 → x1 ≠ 0 → x1 = x2 →
    exec .decode s = .next { s.decodeRooted root with status := 0x000B0140 }

/-- R175: a corrected digit that exceeds 9 ends UNCORRECTABLE with CORRECTED_TO_TEN, and C = D. -/
def Obligations.DoubleBranchCorrectedToTen : Prop :=
  ∀ (s : State) (root m1 m2 : Nat) (i1 i2 : Fin 10), s.d.AllDecimal → DoubleErrorBranch s.d → SmallerRoot s.d root →
    RootPositions s.d root (i1.val + 1) (i2.val + 1) → i1 ≠ i2 →
    MagnitudesAt s.d (i1.val + 1) (i2.val + 1) m1 m2 →
    9 < correctedDigit s.d i1 m1 ∨ 9 < correctedDigit s.d i2 m2 →
    exec .decode s = .next { s.decodeRooted root with status := 0x000B0440 }

/-- R174 and R176: otherwise DECODE ends DOUBLE: C holds D with the digit at each position replaced by
(old + 11 - magnitude) mod 11, and the registers hold the two positions and magnitudes in that order. -/
def Obligations.DoubleBranchCorrectsTwoDigits : Prop :=
  ∀ (s : State) (root m1 m2 : Nat) (i1 i2 : Fin 10), s.d.AllDecimal → DoubleErrorBranch s.d → SmallerRoot s.d root →
    RootPositions s.d root (i1.val + 1) (i2.val + 1) → i1 ≠ i2 →
    MagnitudesAt s.d (i1.val + 1) (i2.val + 1) m1 m2 →
    correctedDigit s.d i1 m1 ≤ 9 → correctedDigit s.d i2 m2 ≤ 9 →
    exec .decode s = .next { s.decodeRooted root with
      status := 0x000B0030
      c := (s.d.set i1 (BitVec.ofNat 4 (correctedDigit s.d i1 m1))).set i2
        (BitVec.ofNat 4 (correctedDigit s.d i2 m2))
      pos1 := BitVec.ofNat 4 (i1.val + 1), pos2 := BitVec.ofNat 4 (i2.val + 1)
      mag1 := BitVec.ofNat 4 m1, mag2 := BitVec.ofNat 4 m2 }

/-- R177: on every UNCORRECTABLE end C = D, the positions and magnitudes are 0, S0..S3 and P, Q, R hold their values, DISC
its value where step 5a was reached and 0 otherwise, and ROOT the root where one was found and 0 otherwise. -/
def Obligations.UncorrectableLeavesTheWord : Prop :=
  ∀ s t : State, exec .decode s = .next t → outcomeField t.status = DecodeEnd.uncorrectable.code →
    t.c = s.d ∧ t.pos1 = 0 ∧ t.pos2 = 0 ∧ t.mag1 = 0 ∧ t.mag2 = 0 ∧
    (t.s0.toNat : Int) = syn s.d 0 ∧ (t.s1.toNat : Int) = syn s.d 1 ∧
    (t.s2.toNat : Int) = syn s.d 2 ∧ (t.s3.toNat : Int) = syn s.d 3 ∧
    (t.p.toNat : Int) = coefP s.d ∧ (t.q.toNat : Int) = coefQ s.d ∧ (t.r.toNat : Int) = coefR s.d ∧
    (SingleErrorBranch s.d → t.disc = 0 ∧ t.root = 0) ∧
    (DoubleErrorBranch s.d → (t.disc.toNat : Int) = discOf s.d ∧
      ((∃ root : Nat, SmallerRoot s.d root ∧ t.root.toNat = root) ∨
        ((∀ root : Nat, ¬ SmallerRoot s.d root) ∧ t.root = 0)))

/-- 42_error_locator_solver section 4, "R180": every codeword with one digit altered to another decimal digit decodes: SINGLE at that
position, with the original codeword in C (the spec marks the rule as derived). -/
def Obligations.OneAlteredDigitDecodes : Prop :=
  ∀ (s : State) (v : Digits) (i : Fin 10) (x : Nibble), IsCodeword v → Decimal x → x ≠ v.get i →
    s.d = v.set i x →
    ∃ t, exec .decode s = .next t ∧ outcomeField t.status = DecodeEnd.single.code ∧ t.c = v ∧
      t.pos1.toNat = i.val + 1 ∧ (t.mag1.toNat : Int) = ((x.toNat : Int) - (v.get i).toNat) % 11

/-- 42_error_locator_solver section 4, "R179": every codeword with two digits altered to other decimal digits decodes: DOUBLE at those
two positions, in either order, with the original codeword in C (the spec marks the rule as derived). -/
def Obligations.TwoAlteredDigitsDecode : Prop :=
  ∀ (s : State) (v : Digits) (i j : Fin 10) (x y : Nibble), IsCodeword v → i ≠ j → Decimal x → Decimal y →
    x ≠ v.get i → y ≠ v.get j → s.d = (v.set i x).set j y →
    ∃ t, exec .decode s = .next t ∧ outcomeField t.status = DecodeEnd.double.code ∧ t.c = v ∧
      ((t.pos1.toNat = i.val + 1 ∧ t.pos2.toNat = j.val + 1) ∨
        (t.pos1.toNat = j.val + 1 ∧ t.pos2.toNat = i.val + 1))

/-- 42_error_locator_solver section 4, "R181": after SINGLE or DOUBLE, DECODE of the corrected word ends NO_ERROR, unless it holds a 10,
which only SINGLE can leave and which is INVALID_DIGIT (the spec marks the rule as derived). -/
def Obligations.RedecodingACorrectedWord : Prop :=
  ∀ s t u : State, exec .decode s = .next t →
    outcomeField t.status = DecodeEnd.single.code ∨ outcomeField t.status = DecodeEnd.double.code →
    exec .decode { t with d := t.c } = .next u →
    (t.c.AllDecimal → outcomeField u.status = DecodeEnd.noError.code) ∧
    (¬ t.c.AllDecimal →
      outcomeField t.status = DecodeEnd.single.code ∧ errField u.status = Err.invalidDigit.code)

/-- 42_error_locator_solver section 4, "R182": DECODE of a codeword with 1 to 4 digits altered completes and does not end
NO_ERROR, so two different words that DECODE ends NO_ERROR differ in at least five positions (the spec marks the rule as
derived). -/
def Obligations.CodewordsDifferInFivePositions : Prop :=
  (∀ (s : State) (v : Digits), IsCodeword v → s.d.AllDecimal → 1 ≤ distance v s.d → distance v s.d ≤ 4 →
    ∃ t, exec .decode s = .next t ∧ errField t.status = Err.ok.code ∧
      outcomeField t.status ≠ DecodeEnd.noError.code) ∧
  ∀ s s' t t' : State, exec .decode s = .next t → exec .decode s' = .next t' →
    outcomeField t.status = DecodeEnd.noError.code → outcomeField t'.status = DecodeEnd.noError.code →
    s.d ≠ s'.d → 5 ≤ distance s.d s'.d

/-- 42_error_locator_solver section 4, "R182": with two or three digits altered, DECODE never ends SINGLE and never ends NO_ERROR (the
spec marks the rule as derived). -/
def Obligations.TwoOrThreeAlteredDigitsNeverSingle : Prop :=
  ∀ (s t : State) (v : Digits), IsCodeword v → s.d.AllDecimal → 2 ≤ distance v s.d → distance v s.d ≤ 3 →
    exec .decode s = .next t →
    outcomeField t.status ≠ DecodeEnd.single.code ∧ outcomeField t.status ≠ DecodeEnd.noError.code

/-! ### All commands -/

/-- R203: a command changes its write set alone, an error zeroes every register of the write set, and no command writes A,
B or D. The events still to come and what has been read, which are the model's own, do not change. -/
def Obligations.CommandsStayInTheirWriteSets : Prop :=
  (∀ (i : Instr) (s t : State), i ∈ [Instr.new, .add, .sub, .mul, .div, .pow, .sqrt, .eq] → exec i s = .next t →
    t = { s with y := t.y, status := t.status, erred := t.erred } ∧ (errField t.status ≠ 0 → t.y = 0)) ∧
  (∀ s t : State, exec .check s = .next t →
    t = { s with c := t.c, status := t.status, erred := t.erred } ∧
    (errField t.status ≠ 0 → t.c = Digits.zero)) ∧
  (∀ s t : State, exec .synd s = .next t →
    t = { s with s0 := t.s0, s1 := t.s1, s2 := t.s2, s3 := t.s3, status := t.status, erred := t.erred } ∧
    (errField t.status ≠ 0 → t.s0 = 0 ∧ t.s1 = 0 ∧ t.s2 = 0 ∧ t.s3 = 0)) ∧
  (∀ s t : State, exec .decode s = .next t →
    t = { s with
      s0 := t.s0, s1 := t.s1, s2 := t.s2, s3 := t.s3, p := t.p, q := t.q, r := t.r, disc := t.disc, root := t.root
      pos1 := t.pos1, pos2 := t.pos2, mag1 := t.mag1, mag2 := t.mag2, c := t.c
      status := t.status, erred := t.erred } ∧
    (errField t.status ≠ 0 →
      t.s0 = 0 ∧ t.s1 = 0 ∧ t.s2 = 0 ∧ t.s3 = 0 ∧ t.p = 0 ∧ t.q = 0 ∧ t.r = 0 ∧ t.disc = 0 ∧ t.root = 0 ∧
      t.pos1 = 0 ∧ t.pos2 = 0 ∧ t.mag1 = 0 ∧ t.mag2 = 0 ∧ t.c = Digits.zero)) ∧
  ∀ (w : Word) (s t : State), IllegalWord w → executeCommand w s = .next t →
    t = { s with status := t.status, erred := t.erred }

/-- 30_encoding section 4: a command's results depend on the registers it reads and on nothing else: NEW and SQRT on A;
ADD, SUB, MUL, DIV, POW and EQ on A and B; CHECK on D[1..6]; SYND and DECODE on D[1..10]. -/
def Obligations.CommandsReadOnlyTheirOperands : Prop :=
  (∀ (i : Instr) (s s' t t' : State), i ∈ [Instr.new, .sqrt] → s.a = s'.a →
    exec i s = .next t → exec i s' = .next t' → t.y = t'.y ∧ t.status = t'.status) ∧
  (∀ (i : Instr) (s s' t t' : State), i ∈ [Instr.add, .sub, .mul, .div, .pow, .eq] → s.a = s'.a → s.b = s'.b →
    exec i s = .next t → exec i s' = .next t' → t.y = t'.y ∧ t.status = t'.status) ∧
  (∀ s s' t t' : State, (∀ j : Fin 10, j < 6 → s.d.get j = s'.d.get j) →
    exec .check s = .next t → exec .check s' = .next t' → t.c = t'.c ∧ t.status = t'.status) ∧
  (∀ s s' t t' : State, s.d = s'.d → exec .synd s = .next t → exec .synd s' = .next t' →
    t.s0 = t'.s0 ∧ t.s1 = t'.s1 ∧ t.s2 = t'.s2 ∧ t.s3 = t'.s3 ∧ t.status = t'.status) ∧
  ∀ s s' t t' : State, s.d = s'.d → exec .decode s = .next t → exec .decode s' = .next t' →
    t.s0 = t'.s0 ∧ t.s1 = t'.s1 ∧ t.s2 = t'.s2 ∧ t.s3 = t'.s3 ∧ t.p = t'.p ∧ t.q = t'.q ∧ t.r = t'.r ∧
    t.disc = t'.disc ∧ t.root = t'.root ∧ t.pos1 = t'.pos1 ∧ t.pos2 = t'.pos2 ∧ t.mag1 = t'.mag1 ∧
    t.mag2 = t'.mag2 ∧ t.c = t'.c ∧ t.status = t'.status

/-- 20_memory, "R67": a command run a second time leaves the state that running it once left, because no command reads a register it
writes (the spec marks the reason as derived). -/
def Obligations.RepeatingACommandChangesNothing : Prop :=
  ∀ (w : Word) (s t : State), executeCommand w s = .next t → executeCommand w t = .next t
end

