-- ==== Sys2Proof/Laws/DecodeState.lean ====
section
/-! SUPPORT. One lemma per field of the register states of DECODE that Safety.lean names for the statements, each true by
unfolding the state once, so that no proof unfolds a power sum. -/

namespace Sys2Proof.Machine

/-! ### decodeBase -/

@[simp] theorem decodeBase_status (s : State) : s.decodeBase.status = s.status := rfl
@[simp] theorem decodeBase_a (s : State) : s.decodeBase.a = s.a := rfl
@[simp] theorem decodeBase_b (s : State) : s.decodeBase.b = s.b := rfl
@[simp] theorem decodeBase_y (s : State) : s.decodeBase.y = s.y := rfl
@[simp] theorem decodeBase_s0 (s : State) : s.decodeBase.s0 = BitVec.ofInt 4 (syn s.d 0) := rfl
@[simp] theorem decodeBase_s1 (s : State) : s.decodeBase.s1 = BitVec.ofInt 4 (syn s.d 1) := rfl
@[simp] theorem decodeBase_s2 (s : State) : s.decodeBase.s2 = BitVec.ofInt 4 (syn s.d 2) := rfl
@[simp] theorem decodeBase_s3 (s : State) : s.decodeBase.s3 = BitVec.ofInt 4 (syn s.d 3) := rfl
@[simp] theorem decodeBase_p (s : State) : s.decodeBase.p = 0 := rfl
@[simp] theorem decodeBase_q (s : State) : s.decodeBase.q = 0 := rfl
@[simp] theorem decodeBase_r (s : State) : s.decodeBase.r = 0 := rfl
@[simp] theorem decodeBase_disc (s : State) : s.decodeBase.disc = 0 := rfl
@[simp] theorem decodeBase_root (s : State) : s.decodeBase.root = 0 := rfl
@[simp] theorem decodeBase_pos1 (s : State) : s.decodeBase.pos1 = 0 := rfl
@[simp] theorem decodeBase_pos2 (s : State) : s.decodeBase.pos2 = 0 := rfl
@[simp] theorem decodeBase_mag1 (s : State) : s.decodeBase.mag1 = 0 := rfl
@[simp] theorem decodeBase_mag2 (s : State) : s.decodeBase.mag2 = 0 := rfl
@[simp] theorem decodeBase_d (s : State) : s.decodeBase.d = s.d := rfl
@[simp] theorem decodeBase_c (s : State) : s.decodeBase.c = s.d := rfl
@[simp] theorem decodeBase_pending (s : State) : s.decodeBase.pending = s.pending := rfl
@[simp] theorem decodeBase_returned (s : State) : s.decodeBase.returned = s.returned := rfl
@[simp] theorem decodeBase_erred (s : State) : s.decodeBase.erred = s.erred := rfl

/-! ### decodeLocated -/

@[simp] theorem decodeLocated_status (s : State) : s.decodeLocated.status = s.status := rfl
@[simp] theorem decodeLocated_a (s : State) : s.decodeLocated.a = s.a := rfl
@[simp] theorem decodeLocated_b (s : State) : s.decodeLocated.b = s.b := rfl
@[simp] theorem decodeLocated_y (s : State) : s.decodeLocated.y = s.y := rfl
@[simp] theorem decodeLocated_s0 (s : State) : s.decodeLocated.s0 = BitVec.ofInt 4 (syn s.d 0) := rfl
@[simp] theorem decodeLocated_s1 (s : State) : s.decodeLocated.s1 = BitVec.ofInt 4 (syn s.d 1) := rfl
@[simp] theorem decodeLocated_s2 (s : State) : s.decodeLocated.s2 = BitVec.ofInt 4 (syn s.d 2) := rfl
@[simp] theorem decodeLocated_s3 (s : State) : s.decodeLocated.s3 = BitVec.ofInt 4 (syn s.d 3) := rfl
@[simp] theorem decodeLocated_p (s : State) : s.decodeLocated.p = BitVec.ofInt 4 (coefP s.d) := rfl
@[simp] theorem decodeLocated_q (s : State) : s.decodeLocated.q = BitVec.ofInt 4 (coefQ s.d) := rfl
@[simp] theorem decodeLocated_r (s : State) : s.decodeLocated.r = BitVec.ofInt 4 (coefR s.d) := rfl
@[simp] theorem decodeLocated_disc (s : State) : s.decodeLocated.disc = 0 := rfl
@[simp] theorem decodeLocated_root (s : State) : s.decodeLocated.root = 0 := rfl
@[simp] theorem decodeLocated_pos1 (s : State) : s.decodeLocated.pos1 = 0 := rfl
@[simp] theorem decodeLocated_pos2 (s : State) : s.decodeLocated.pos2 = 0 := rfl
@[simp] theorem decodeLocated_mag1 (s : State) : s.decodeLocated.mag1 = 0 := rfl
@[simp] theorem decodeLocated_mag2 (s : State) : s.decodeLocated.mag2 = 0 := rfl
@[simp] theorem decodeLocated_d (s : State) : s.decodeLocated.d = s.d := rfl
@[simp] theorem decodeLocated_c (s : State) : s.decodeLocated.c = s.d := rfl
@[simp] theorem decodeLocated_pending (s : State) : s.decodeLocated.pending = s.pending := rfl
@[simp] theorem decodeLocated_returned (s : State) : s.decodeLocated.returned = s.returned := rfl
@[simp] theorem decodeLocated_erred (s : State) : s.decodeLocated.erred = s.erred := rfl

/-! ### decodeRooted -/

@[simp] theorem decodeRooted_status (s : State) (root : Nat) : (s.decodeRooted root).status = s.status := rfl
@[simp] theorem decodeRooted_a (s : State) (root : Nat) : (s.decodeRooted root).a = s.a := rfl
@[simp] theorem decodeRooted_b (s : State) (root : Nat) : (s.decodeRooted root).b = s.b := rfl
@[simp] theorem decodeRooted_y (s : State) (root : Nat) : (s.decodeRooted root).y = s.y := rfl
@[simp] theorem decodeRooted_s0 (s : State) (root : Nat) : (s.decodeRooted root).s0 = BitVec.ofInt 4 (syn s.d 0) := rfl
@[simp] theorem decodeRooted_s1 (s : State) (root : Nat) : (s.decodeRooted root).s1 = BitVec.ofInt 4 (syn s.d 1) := rfl
@[simp] theorem decodeRooted_s2 (s : State) (root : Nat) : (s.decodeRooted root).s2 = BitVec.ofInt 4 (syn s.d 2) := rfl
@[simp] theorem decodeRooted_s3 (s : State) (root : Nat) : (s.decodeRooted root).s3 = BitVec.ofInt 4 (syn s.d 3) := rfl
@[simp] theorem decodeRooted_p (s : State) (root : Nat) : (s.decodeRooted root).p = BitVec.ofInt 4 (coefP s.d) := rfl
@[simp] theorem decodeRooted_q (s : State) (root : Nat) : (s.decodeRooted root).q = BitVec.ofInt 4 (coefQ s.d) := rfl
@[simp] theorem decodeRooted_r (s : State) (root : Nat) : (s.decodeRooted root).r = BitVec.ofInt 4 (coefR s.d) := rfl
@[simp] theorem decodeRooted_disc (s : State) (root : Nat) : (s.decodeRooted root).disc = BitVec.ofInt 4 (discOf s.d) := rfl
@[simp] theorem decodeRooted_root (s : State) (root : Nat) : (s.decodeRooted root).root = BitVec.ofNat 4 root := rfl
@[simp] theorem decodeRooted_pos1 (s : State) (root : Nat) : (s.decodeRooted root).pos1 = 0 := rfl
@[simp] theorem decodeRooted_pos2 (s : State) (root : Nat) : (s.decodeRooted root).pos2 = 0 := rfl
@[simp] theorem decodeRooted_mag1 (s : State) (root : Nat) : (s.decodeRooted root).mag1 = 0 := rfl
@[simp] theorem decodeRooted_mag2 (s : State) (root : Nat) : (s.decodeRooted root).mag2 = 0 := rfl
@[simp] theorem decodeRooted_d (s : State) (root : Nat) : (s.decodeRooted root).d = s.d := rfl
@[simp] theorem decodeRooted_c (s : State) (root : Nat) : (s.decodeRooted root).c = s.d := rfl
@[simp] theorem decodeRooted_pending (s : State) (root : Nat) : (s.decodeRooted root).pending = s.pending := rfl
@[simp] theorem decodeRooted_returned (s : State) (root : Nat) : (s.decodeRooted root).returned = s.returned := rfl
@[simp] theorem decodeRooted_erred (s : State) (root : Nat) : (s.decodeRooted root).erred = s.erred := rfl

end Sys2Proof.Machine
end

