-- ==== Sys2Proof/Laws/Residue.lean ====
section
/-! SUPPORT. What the residue functions of R101 to R107 answer, as integer arithmetic. -/

namespace Sys2Proof.Machine

/-- `mod11` answers the floor residue (R13). -/
theorem mod11_toNat (v : Int) : ((mod11 v).toNat : Int) = v % 11 := by
  simp only [mod11, BitVec.toNat_ofNat]
  omega

theorem mod11_toNat_le (v : Int) : (mod11 v).toNat ≤ 10 := by
  have := mod11_toNat v
  omega

/-- `mod11` of a natural number is its remainder. -/
theorem mod11_natCast (n : Nat) : mod11 (n : Int) = BitVec.ofNat 4 (n % 11) := by
  apply BitVec.eq_of_toNat_eq
  have := mod11_toNat n
  simp only [BitVec.toNat_ofNat]
  omega

theorem mod11_eq_iff (u v : Int) : mod11 u = mod11 v ↔ u % 11 = v % 11 := by
  have hu := mod11_toNat u
  have hv := mod11_toNat v
  constructor
  · intro h
    rw [h] at hu
    omega
  · intro h
    apply BitVec.eq_of_toNat_eq
    omega

theorem mod11_eq_zero_iff (v : Int) : mod11 v = 0 ↔ v % 11 = 0 := by
  have h := mod11_eq_iff v 0
  simpa [mod11] using h

theorem radd_toNat (a b : Residue) : ((radd a b).toNat : Int) = (a.toNat + b.toNat) % 11 := mod11_toNat _
theorem rsub_toNat (a b : Residue) : ((rsub a b).toNat : Int) = (a.toNat - b.toNat) % 11 := mod11_toNat _
theorem rmul_toNat (a b : Residue) : ((rmul a b).toNat : Int) = (a.toNat * b.toNat) % 11 := mod11_toNat _
theorem rneg_toNat (a : Residue) : ((rneg a).toNat : Int) = (-a.toNat) % 11 := by
  rw [rneg, rsub_toNat]
  simp

theorem rsub_toNat_le (a b : Residue) : (rsub a b).toNat ≤ 10 := mod11_toNat_le _
theorem rmul_toNat_le (a b : Residue) : (rmul a b).toNat ≤ 10 := mod11_toNat_le _

/-- Division by zero fails (R105). -/
@[simp] theorem rdiv_zero (a : Residue) : rdiv a 0 = none := by simp [rdiv]

/-- What division answers: a canonical quotient of a divisor that is not 0 (R105). -/
theorem rdiv_some (a b k : Residue) (h : rdiv a b = some k) : b ≠ 0 ∧ k.toNat ≤ 10 ∧ rmul k b = a := by
  revert a b k
  decide

/-- Division fails on canonical operands only by a divisor of 0 (R105). -/
theorem rdiv_eq_none_iff (a b : Residue) (ha : a.toNat ≤ 10) (hb : b.toNat ≤ 10) : rdiv a b = none ↔ b = 0 := by
  revert a b
  decide

/-- The quotient is the one canonical residue k with k·b = a (R105). -/
theorem rdiv_eq_some_iff (a b k : Residue) (hb : b.toNat ≤ 10) (hk : k.toNat ≤ 10) (h0 : b ≠ 0) :
    rdiv a b = some k ↔ rmul k b = a := by
  revert a b k
  decide

/-- What a square root answers: the smallest root, which is at most 5 (R106). -/
theorem rsqrt_some (a x : Residue) (h : rsqrt a = some x) :
    x.toNat ≤ 5 ∧ rmul x x = a ∧ ∀ z : Residue, z.toNat < x.toNat → rmul z z ≠ a := by
  revert a x
  decide

/-- The canonical residues without a square root (the table of R106). -/
theorem rsqrt_eq_none_iff (a : Residue) (ha : a.toNat ≤ 10) : rsqrt a = none ↔ a.toNat ∈ [2, 6, 7, 8, 10] := by
  revert a
  decide

/-- One step of square and multiply keeps acc · base^n modulo 11. -/
theorem rpowLoop_toNat (bits : Nat) (base acc : Residue) (n : Nat) (hn : n < 2 ^ bits) (hacc : acc.toNat ≤ 10) :
    (rpowLoop bits base acc n).toNat = acc.toNat * base.toNat ^ n % 11 := by
  induction bits generalizing base acc n with
  | zero =>
    have : n = 0 := by simpa using hn
    subst this
    simp only [rpowLoop, pow_zero, mul_one]
    omega
  | succ bits ih =>
    have hsq : (rmul base base).toNat = base.toNat ^ 2 % 11 := by
      have := rmul_toNat base base
      rw [pow_two]
      exact_mod_cast this
    have hhalf : n / 2 < 2 ^ bits := by omega
    have hpow (m : Nat) : (base.toNat ^ 2 % 11) ^ m ≡ base.toNat ^ (2 * m) [MOD 11] := by
      rw [pow_mul]
      exact (Nat.mod_modEq _ _).pow m
    rw [rpowLoop, ih _ _ _ hhalf (by split <;> first | exact mod11_toNat_le _ | exact hacc), hsq]
    split
    · next hodd =>
      have hm : (rmul acc base).toNat = acc.toNat * base.toNat % 11 := by
        exact_mod_cast rmul_toNat acc base
      have hn2 : n = 2 * (n / 2) + 1 := by omega
      rw [hm]
      conv_rhs => rw [hn2, pow_succ, mul_comm (base.toNat ^ _), ← mul_assoc]
      exact (Nat.mod_modEq _ _).mul (hpow _)
    · next heven =>
      have hn2 : n = 2 * (n / 2) := by omega
      conv_rhs => rw [hn2]
      exact Nat.ModEq.rfl.mul (hpow _)

/-- `rpow32` answers the power modulo 11 (R104, R115). -/
theorem rpow32_toNat (a : Residue) (n : Word) : (rpow32 a n).toNat = a.toNat ^ n.toNat % 11 := by
  rw [rpow32, rpowLoop_toNat _ _ _ _ n.isLt (by decide)]
  simp

/-- Repeated multiplication answers the power modulo 11 (R104). -/
theorem rpow_toNat (a : Residue) (n : Nat) (ha : a.toNat ≤ 10) (hn : 1 ≤ n) : (rpow a n).toNat = a.toNat ^ n % 11 := by
  induction n, hn using Nat.le_induction with
  | base =>
    simp only [rpow, pow_one]
    omega
  | succ n hn ih =>
    obtain ⟨m, rfl⟩ : ∃ m, n = m + 1 := ⟨n - 1, by omega⟩
    have h : (rmul (rpow a (m + 1)) a).toNat = (rpow a (m + 1)).toNat * a.toNat % 11 := by
      exact_mod_cast rmul_toNat (rpow a (m + 1)) a
    rw [rpow, h, ih, pow_succ _ (m + 1)]
    exact (Nat.mod_modEq _ _).mul_right _

/-- The power POW computes is the repeated multiplication that R104 defines. -/
theorem rpow32_eq_rpow (a : Residue) (n : Word) (ha : a.toNat ≤ 10) (hn : n ≠ 0) : rpow32 a n = rpow a n.toNat := by
  have h1 : 1 ≤ n.toNat := by
    rcases Nat.eq_zero_or_pos n.toNat with h | h
    · exact absurd (BitVec.eq_of_toNat_eq (by simpa using h)) hn
    · exact h
  apply BitVec.eq_of_toNat_eq
  rw [rpow32_toNat, rpow_toNat a _ ha h1]

/-- What `canon` answers (R109). -/
theorem canon_ok (v : Word) (place : BitVec 4) (h : v.toNat < 11) :
    canon v place = .ok (v.setWidth 4) ∧ (v.setWidth 4).toNat = v.toNat := by
  refine ⟨by simp [canon, h], ?_⟩
  simp only [BitVec.toNat_setWidth]
  omega

/-- A value of 11 or more is NONCANON at its place (R109). -/
theorem canon_error (v : Word) (place : BitVec 4) (h : 11 ≤ v.toNat) : canon v place = .error ⟨.noncanon, place⟩ := by
  simp [canon, Nat.not_lt.mpr h]

end Sys2Proof.Machine
end

