-- ==== Sys2Proof/Laws/State.lean ====
section
/-! SUPPORT. One lemma per field per named update of State, each true by unfolding the update once. -/

namespace Sys2Proof.Machine

/-! ### finish -/

@[simp] theorem finish_status (op : BitVec 4) (err : Err) (o : DecodeEnd) (re : Reason) (pos : BitVec 4) (s : State) : (finish op err o re pos s).status = statusWord err o re pos op := rfl
@[simp] theorem finish_a (op : BitVec 4) (err : Err) (o : DecodeEnd) (re : Reason) (pos : BitVec 4) (s : State) : (finish op err o re pos s).a = s.a := rfl
@[simp] theorem finish_b (op : BitVec 4) (err : Err) (o : DecodeEnd) (re : Reason) (pos : BitVec 4) (s : State) : (finish op err o re pos s).b = s.b := rfl
@[simp] theorem finish_y (op : BitVec 4) (err : Err) (o : DecodeEnd) (re : Reason) (pos : BitVec 4) (s : State) : (finish op err o re pos s).y = s.y := rfl
@[simp] theorem finish_s0 (op : BitVec 4) (err : Err) (o : DecodeEnd) (re : Reason) (pos : BitVec 4) (s : State) : (finish op err o re pos s).s0 = s.s0 := rfl
@[simp] theorem finish_s1 (op : BitVec 4) (err : Err) (o : DecodeEnd) (re : Reason) (pos : BitVec 4) (s : State) : (finish op err o re pos s).s1 = s.s1 := rfl
@[simp] theorem finish_s2 (op : BitVec 4) (err : Err) (o : DecodeEnd) (re : Reason) (pos : BitVec 4) (s : State) : (finish op err o re pos s).s2 = s.s2 := rfl
@[simp] theorem finish_s3 (op : BitVec 4) (err : Err) (o : DecodeEnd) (re : Reason) (pos : BitVec 4) (s : State) : (finish op err o re pos s).s3 = s.s3 := rfl
@[simp] theorem finish_p (op : BitVec 4) (err : Err) (o : DecodeEnd) (re : Reason) (pos : BitVec 4) (s : State) : (finish op err o re pos s).p = s.p := rfl
@[simp] theorem finish_q (op : BitVec 4) (err : Err) (o : DecodeEnd) (re : Reason) (pos : BitVec 4) (s : State) : (finish op err o re pos s).q = s.q := rfl
@[simp] theorem finish_r (op : BitVec 4) (err : Err) (o : DecodeEnd) (re : Reason) (pos : BitVec 4) (s : State) : (finish op err o re pos s).r = s.r := rfl
@[simp] theorem finish_disc (op : BitVec 4) (err : Err) (o : DecodeEnd) (re : Reason) (pos : BitVec 4) (s : State) : (finish op err o re pos s).disc = s.disc := rfl
@[simp] theorem finish_root (op : BitVec 4) (err : Err) (o : DecodeEnd) (re : Reason) (pos : BitVec 4) (s : State) : (finish op err o re pos s).root = s.root := rfl
@[simp] theorem finish_pos1 (op : BitVec 4) (err : Err) (o : DecodeEnd) (re : Reason) (pos : BitVec 4) (s : State) : (finish op err o re pos s).pos1 = s.pos1 := rfl
@[simp] theorem finish_pos2 (op : BitVec 4) (err : Err) (o : DecodeEnd) (re : Reason) (pos : BitVec 4) (s : State) : (finish op err o re pos s).pos2 = s.pos2 := rfl
@[simp] theorem finish_mag1 (op : BitVec 4) (err : Err) (o : DecodeEnd) (re : Reason) (pos : BitVec 4) (s : State) : (finish op err o re pos s).mag1 = s.mag1 := rfl
@[simp] theorem finish_mag2 (op : BitVec 4) (err : Err) (o : DecodeEnd) (re : Reason) (pos : BitVec 4) (s : State) : (finish op err o re pos s).mag2 = s.mag2 := rfl
@[simp] theorem finish_d (op : BitVec 4) (err : Err) (o : DecodeEnd) (re : Reason) (pos : BitVec 4) (s : State) : (finish op err o re pos s).d = s.d := rfl
@[simp] theorem finish_c (op : BitVec 4) (err : Err) (o : DecodeEnd) (re : Reason) (pos : BitVec 4) (s : State) : (finish op err o re pos s).c = s.c := rfl
@[simp] theorem finish_pending (op : BitVec 4) (err : Err) (o : DecodeEnd) (re : Reason) (pos : BitVec 4) (s : State) : (finish op err o re pos s).pending = s.pending := rfl
@[simp] theorem finish_returned (op : BitVec 4) (err : Err) (o : DecodeEnd) (re : Reason) (pos : BitVec 4) (s : State) : (finish op err o re pos s).returned = s.returned := rfl
@[simp] theorem finish_erred (op : BitVec 4) (err : Err) (o : DecodeEnd) (re : Reason) (pos : BitVec 4) (s : State) : (finish op err o re pos s).erred = (s.erred || err != .ok) := rfl

/-! ### clearWriteSet -/

@[simp] theorem clearWriteSet_status (ws : WriteSet) (s : State) : (clearWriteSet ws s).status = s.status := by cases ws <;> rfl
@[simp] theorem clearWriteSet_a (ws : WriteSet) (s : State) : (clearWriteSet ws s).a = s.a := by cases ws <;> rfl
@[simp] theorem clearWriteSet_b (ws : WriteSet) (s : State) : (clearWriteSet ws s).b = s.b := by cases ws <;> rfl
@[simp] theorem clearWriteSet_d (ws : WriteSet) (s : State) : (clearWriteSet ws s).d = s.d := by cases ws <;> rfl
@[simp] theorem clearWriteSet_pending (ws : WriteSet) (s : State) : (clearWriteSet ws s).pending = s.pending := by cases ws <;> rfl
@[simp] theorem clearWriteSet_returned (ws : WriteSet) (s : State) : (clearWriteSet ws s).returned = s.returned := by cases ws <;> rfl
@[simp] theorem clearWriteSet_erred (ws : WriteSet) (s : State) : (clearWriteSet ws s).erred = s.erred := by cases ws <;> rfl

/-! ### raiseError -/

@[simp] theorem raiseError_status (ws : WriteSet) (op : BitVec 4) (e : Raise) (s : State) :
    (raiseError ws op e s).status = statusWord e.code .notDecoded .noReason e.errpos op := rfl
@[simp] theorem raiseError_a (ws : WriteSet) (op : BitVec 4) (e : Raise) (s : State) : (raiseError ws op e s).a = s.a := by cases ws <;> rfl
@[simp] theorem raiseError_b (ws : WriteSet) (op : BitVec 4) (e : Raise) (s : State) : (raiseError ws op e s).b = s.b := by cases ws <;> rfl
@[simp] theorem raiseError_y (ws : WriteSet) (op : BitVec 4) (e : Raise) (s : State) : (raiseError ws op e s).y = (clearWriteSet ws s).y := rfl
@[simp] theorem raiseError_s0 (ws : WriteSet) (op : BitVec 4) (e : Raise) (s : State) : (raiseError ws op e s).s0 = (clearWriteSet ws s).s0 := rfl
@[simp] theorem raiseError_s1 (ws : WriteSet) (op : BitVec 4) (e : Raise) (s : State) : (raiseError ws op e s).s1 = (clearWriteSet ws s).s1 := rfl
@[simp] theorem raiseError_s2 (ws : WriteSet) (op : BitVec 4) (e : Raise) (s : State) : (raiseError ws op e s).s2 = (clearWriteSet ws s).s2 := rfl
@[simp] theorem raiseError_s3 (ws : WriteSet) (op : BitVec 4) (e : Raise) (s : State) : (raiseError ws op e s).s3 = (clearWriteSet ws s).s3 := rfl
@[simp] theorem raiseError_p (ws : WriteSet) (op : BitVec 4) (e : Raise) (s : State) : (raiseError ws op e s).p = (clearWriteSet ws s).p := rfl
@[simp] theorem raiseError_q (ws : WriteSet) (op : BitVec 4) (e : Raise) (s : State) : (raiseError ws op e s).q = (clearWriteSet ws s).q := rfl
@[simp] theorem raiseError_r (ws : WriteSet) (op : BitVec 4) (e : Raise) (s : State) : (raiseError ws op e s).r = (clearWriteSet ws s).r := rfl
@[simp] theorem raiseError_disc (ws : WriteSet) (op : BitVec 4) (e : Raise) (s : State) : (raiseError ws op e s).disc = (clearWriteSet ws s).disc := rfl
@[simp] theorem raiseError_root (ws : WriteSet) (op : BitVec 4) (e : Raise) (s : State) : (raiseError ws op e s).root = (clearWriteSet ws s).root := rfl
@[simp] theorem raiseError_pos1 (ws : WriteSet) (op : BitVec 4) (e : Raise) (s : State) : (raiseError ws op e s).pos1 = (clearWriteSet ws s).pos1 := rfl
@[simp] theorem raiseError_pos2 (ws : WriteSet) (op : BitVec 4) (e : Raise) (s : State) : (raiseError ws op e s).pos2 = (clearWriteSet ws s).pos2 := rfl
@[simp] theorem raiseError_mag1 (ws : WriteSet) (op : BitVec 4) (e : Raise) (s : State) : (raiseError ws op e s).mag1 = (clearWriteSet ws s).mag1 := rfl
@[simp] theorem raiseError_mag2 (ws : WriteSet) (op : BitVec 4) (e : Raise) (s : State) : (raiseError ws op e s).mag2 = (clearWriteSet ws s).mag2 := rfl
@[simp] theorem raiseError_d (ws : WriteSet) (op : BitVec 4) (e : Raise) (s : State) : (raiseError ws op e s).d = s.d := by cases ws <;> rfl
@[simp] theorem raiseError_c (ws : WriteSet) (op : BitVec 4) (e : Raise) (s : State) : (raiseError ws op e s).c = (clearWriteSet ws s).c := rfl
@[simp] theorem raiseError_pending (ws : WriteSet) (op : BitVec 4) (e : Raise) (s : State) : (raiseError ws op e s).pending = s.pending := by cases ws <;> rfl
@[simp] theorem raiseError_returned (ws : WriteSet) (op : BitVec 4) (e : Raise) (s : State) : (raiseError ws op e s).returned = s.returned := by cases ws <;> rfl
@[simp] theorem raiseError_erred (ws : WriteSet) (op : BitVec 4) (e : Raise) (s : State) : (raiseError ws op e s).erred = (s.erred || e.code != .ok) := by cases ws <;> rfl

/-! ### finishOk -/

@[simp] theorem finishOk_status (op : BitVec 4) (s : State) : (finishOk op s).status = statusWord .ok .notDecoded .noReason 0 op := rfl
@[simp] theorem finishOk_a (op : BitVec 4) (s : State) : (finishOk op s).a = s.a := rfl
@[simp] theorem finishOk_b (op : BitVec 4) (s : State) : (finishOk op s).b = s.b := rfl
@[simp] theorem finishOk_y (op : BitVec 4) (s : State) : (finishOk op s).y = s.y := rfl
@[simp] theorem finishOk_s0 (op : BitVec 4) (s : State) : (finishOk op s).s0 = s.s0 := rfl
@[simp] theorem finishOk_s1 (op : BitVec 4) (s : State) : (finishOk op s).s1 = s.s1 := rfl
@[simp] theorem finishOk_s2 (op : BitVec 4) (s : State) : (finishOk op s).s2 = s.s2 := rfl
@[simp] theorem finishOk_s3 (op : BitVec 4) (s : State) : (finishOk op s).s3 = s.s3 := rfl
@[simp] theorem finishOk_p (op : BitVec 4) (s : State) : (finishOk op s).p = s.p := rfl
@[simp] theorem finishOk_q (op : BitVec 4) (s : State) : (finishOk op s).q = s.q := rfl
@[simp] theorem finishOk_r (op : BitVec 4) (s : State) : (finishOk op s).r = s.r := rfl
@[simp] theorem finishOk_disc (op : BitVec 4) (s : State) : (finishOk op s).disc = s.disc := rfl
@[simp] theorem finishOk_root (op : BitVec 4) (s : State) : (finishOk op s).root = s.root := rfl
@[simp] theorem finishOk_pos1 (op : BitVec 4) (s : State) : (finishOk op s).pos1 = s.pos1 := rfl
@[simp] theorem finishOk_pos2 (op : BitVec 4) (s : State) : (finishOk op s).pos2 = s.pos2 := rfl
@[simp] theorem finishOk_mag1 (op : BitVec 4) (s : State) : (finishOk op s).mag1 = s.mag1 := rfl
@[simp] theorem finishOk_mag2 (op : BitVec 4) (s : State) : (finishOk op s).mag2 = s.mag2 := rfl
@[simp] theorem finishOk_d (op : BitVec 4) (s : State) : (finishOk op s).d = s.d := rfl
@[simp] theorem finishOk_c (op : BitVec 4) (s : State) : (finishOk op s).c = s.c := rfl
@[simp] theorem finishOk_pending (op : BitVec 4) (s : State) : (finishOk op s).pending = s.pending := rfl
@[simp] theorem finishOk_returned (op : BitVec 4) (s : State) : (finishOk op s).returned = s.returned := rfl
@[simp] theorem finishOk_erred (op : BitVec 4) (s : State) : (finishOk op s).erred = (s.erred || false) := rfl

/-! ### loadSyndrome -/

@[simp] theorem loadSyndrome_status (s : State) : (loadSyndrome s).status = s.status := rfl
@[simp] theorem loadSyndrome_a (s : State) : (loadSyndrome s).a = s.a := rfl
@[simp] theorem loadSyndrome_b (s : State) : (loadSyndrome s).b = s.b := rfl
@[simp] theorem loadSyndrome_y (s : State) : (loadSyndrome s).y = s.y := rfl
@[simp] theorem loadSyndrome_s0 (s : State) : (loadSyndrome s).s0 = wsum (wSyn 0) (receivedWord s) := rfl
@[simp] theorem loadSyndrome_s1 (s : State) : (loadSyndrome s).s1 = wsum (wSyn 1) (receivedWord s) := rfl
@[simp] theorem loadSyndrome_s2 (s : State) : (loadSyndrome s).s2 = wsum (wSyn 2) (receivedWord s) := rfl
@[simp] theorem loadSyndrome_s3 (s : State) : (loadSyndrome s).s3 = wsum (wSyn 3) (receivedWord s) := rfl
@[simp] theorem loadSyndrome_p (s : State) : (loadSyndrome s).p = s.p := rfl
@[simp] theorem loadSyndrome_q (s : State) : (loadSyndrome s).q = s.q := rfl
@[simp] theorem loadSyndrome_r (s : State) : (loadSyndrome s).r = s.r := rfl
@[simp] theorem loadSyndrome_disc (s : State) : (loadSyndrome s).disc = s.disc := rfl
@[simp] theorem loadSyndrome_root (s : State) : (loadSyndrome s).root = s.root := rfl
@[simp] theorem loadSyndrome_pos1 (s : State) : (loadSyndrome s).pos1 = s.pos1 := rfl
@[simp] theorem loadSyndrome_pos2 (s : State) : (loadSyndrome s).pos2 = s.pos2 := rfl
@[simp] theorem loadSyndrome_mag1 (s : State) : (loadSyndrome s).mag1 = s.mag1 := rfl
@[simp] theorem loadSyndrome_mag2 (s : State) : (loadSyndrome s).mag2 = s.mag2 := rfl
@[simp] theorem loadSyndrome_d (s : State) : (loadSyndrome s).d = s.d := rfl
@[simp] theorem loadSyndrome_c (s : State) : (loadSyndrome s).c = s.c := rfl
@[simp] theorem loadSyndrome_pending (s : State) : (loadSyndrome s).pending = s.pending := rfl
@[simp] theorem loadSyndrome_returned (s : State) : (loadSyndrome s).returned = s.returned := rfl
@[simp] theorem loadSyndrome_erred (s : State) : (loadSyndrome s).erred = s.erred := rfl

/-! ### decodeStart -/

@[simp] theorem decodeStart_status (s : State) : (decodeStart s).status = s.status := rfl
@[simp] theorem decodeStart_a (s : State) : (decodeStart s).a = s.a := rfl
@[simp] theorem decodeStart_b (s : State) : (decodeStart s).b = s.b := rfl
@[simp] theorem decodeStart_y (s : State) : (decodeStart s).y = s.y := rfl
@[simp] theorem decodeStart_s0 (s : State) : (decodeStart s).s0 = wsum (wSyn 0) (receivedWord s) := rfl
@[simp] theorem decodeStart_s1 (s : State) : (decodeStart s).s1 = wsum (wSyn 1) (receivedWord s) := rfl
@[simp] theorem decodeStart_s2 (s : State) : (decodeStart s).s2 = wsum (wSyn 2) (receivedWord s) := rfl
@[simp] theorem decodeStart_s3 (s : State) : (decodeStart s).s3 = wsum (wSyn 3) (receivedWord s) := rfl
@[simp] theorem decodeStart_p (s : State) : (decodeStart s).p = 0 := rfl
@[simp] theorem decodeStart_q (s : State) : (decodeStart s).q = 0 := rfl
@[simp] theorem decodeStart_r (s : State) : (decodeStart s).r = 0 := rfl
@[simp] theorem decodeStart_disc (s : State) : (decodeStart s).disc = 0 := rfl
@[simp] theorem decodeStart_root (s : State) : (decodeStart s).root = 0 := rfl
@[simp] theorem decodeStart_pos1 (s : State) : (decodeStart s).pos1 = 0 := rfl
@[simp] theorem decodeStart_pos2 (s : State) : (decodeStart s).pos2 = 0 := rfl
@[simp] theorem decodeStart_mag1 (s : State) : (decodeStart s).mag1 = 0 := rfl
@[simp] theorem decodeStart_mag2 (s : State) : (decodeStart s).mag2 = 0 := rfl
@[simp] theorem decodeStart_d (s : State) : (decodeStart s).d = s.d := rfl
@[simp] theorem decodeStart_c (s : State) : (decodeStart s).c = s.d := rfl
@[simp] theorem decodeStart_pending (s : State) : (decodeStart s).pending = s.pending := rfl
@[simp] theorem decodeStart_returned (s : State) : (decodeStart s).returned = s.returned := rfl
@[simp] theorem decodeStart_erred (s : State) : (decodeStart s).erred = s.erred := rfl

/-! ### loadCoefficients -/

@[simp] theorem loadCoefficients_status (s : State) : (loadCoefficients s).status = s.status := rfl
@[simp] theorem loadCoefficients_a (s : State) : (loadCoefficients s).a = s.a := rfl
@[simp] theorem loadCoefficients_b (s : State) : (loadCoefficients s).b = s.b := rfl
@[simp] theorem loadCoefficients_y (s : State) : (loadCoefficients s).y = s.y := rfl
@[simp] theorem loadCoefficients_s0 (s : State) : (loadCoefficients s).s0 = s.s0 := rfl
@[simp] theorem loadCoefficients_s1 (s : State) : (loadCoefficients s).s1 = s.s1 := rfl
@[simp] theorem loadCoefficients_s2 (s : State) : (loadCoefficients s).s2 = s.s2 := rfl
@[simp] theorem loadCoefficients_s3 (s : State) : (loadCoefficients s).s3 = s.s3 := rfl
@[simp] theorem loadCoefficients_p (s : State) : (loadCoefficients s).p = rsub (rmul s.s1 s.s1) (rmul s.s0 s.s2) := rfl
@[simp] theorem loadCoefficients_q (s : State) : (loadCoefficients s).q = rsub (rmul s.s0 s.s3) (rmul s.s1 s.s2) := rfl
@[simp] theorem loadCoefficients_r (s : State) : (loadCoefficients s).r = rsub (rmul s.s2 s.s2) (rmul s.s1 s.s3) := rfl
@[simp] theorem loadCoefficients_disc (s : State) : (loadCoefficients s).disc = s.disc := rfl
@[simp] theorem loadCoefficients_root (s : State) : (loadCoefficients s).root = s.root := rfl
@[simp] theorem loadCoefficients_pos1 (s : State) : (loadCoefficients s).pos1 = s.pos1 := rfl
@[simp] theorem loadCoefficients_pos2 (s : State) : (loadCoefficients s).pos2 = s.pos2 := rfl
@[simp] theorem loadCoefficients_mag1 (s : State) : (loadCoefficients s).mag1 = s.mag1 := rfl
@[simp] theorem loadCoefficients_mag2 (s : State) : (loadCoefficients s).mag2 = s.mag2 := rfl
@[simp] theorem loadCoefficients_d (s : State) : (loadCoefficients s).d = s.d := rfl
@[simp] theorem loadCoefficients_c (s : State) : (loadCoefficients s).c = s.c := rfl
@[simp] theorem loadCoefficients_pending (s : State) : (loadCoefficients s).pending = s.pending := rfl
@[simp] theorem loadCoefficients_returned (s : State) : (loadCoefficients s).returned = s.returned := rfl
@[simp] theorem loadCoefficients_erred (s : State) : (loadCoefficients s).erred = s.erred := rfl

/-! ### decodeFinish -/

@[simp] theorem decodeFinish_status (o : DecodeEnd) (re : Reason) (s : State) : (decodeFinish o re s).status = statusWord .ok o re 0 Instr.decode.opcode := rfl
@[simp] theorem decodeFinish_a (o : DecodeEnd) (re : Reason) (s : State) : (decodeFinish o re s).a = s.a := rfl
@[simp] theorem decodeFinish_b (o : DecodeEnd) (re : Reason) (s : State) : (decodeFinish o re s).b = s.b := rfl
@[simp] theorem decodeFinish_y (o : DecodeEnd) (re : Reason) (s : State) : (decodeFinish o re s).y = s.y := rfl
@[simp] theorem decodeFinish_s0 (o : DecodeEnd) (re : Reason) (s : State) : (decodeFinish o re s).s0 = s.s0 := rfl
@[simp] theorem decodeFinish_s1 (o : DecodeEnd) (re : Reason) (s : State) : (decodeFinish o re s).s1 = s.s1 := rfl
@[simp] theorem decodeFinish_s2 (o : DecodeEnd) (re : Reason) (s : State) : (decodeFinish o re s).s2 = s.s2 := rfl
@[simp] theorem decodeFinish_s3 (o : DecodeEnd) (re : Reason) (s : State) : (decodeFinish o re s).s3 = s.s3 := rfl
@[simp] theorem decodeFinish_p (o : DecodeEnd) (re : Reason) (s : State) : (decodeFinish o re s).p = s.p := rfl
@[simp] theorem decodeFinish_q (o : DecodeEnd) (re : Reason) (s : State) : (decodeFinish o re s).q = s.q := rfl
@[simp] theorem decodeFinish_r (o : DecodeEnd) (re : Reason) (s : State) : (decodeFinish o re s).r = s.r := rfl
@[simp] theorem decodeFinish_disc (o : DecodeEnd) (re : Reason) (s : State) : (decodeFinish o re s).disc = s.disc := rfl
@[simp] theorem decodeFinish_root (o : DecodeEnd) (re : Reason) (s : State) : (decodeFinish o re s).root = s.root := rfl
@[simp] theorem decodeFinish_pos1 (o : DecodeEnd) (re : Reason) (s : State) : (decodeFinish o re s).pos1 = s.pos1 := rfl
@[simp] theorem decodeFinish_pos2 (o : DecodeEnd) (re : Reason) (s : State) : (decodeFinish o re s).pos2 = s.pos2 := rfl
@[simp] theorem decodeFinish_mag1 (o : DecodeEnd) (re : Reason) (s : State) : (decodeFinish o re s).mag1 = s.mag1 := rfl
@[simp] theorem decodeFinish_mag2 (o : DecodeEnd) (re : Reason) (s : State) : (decodeFinish o re s).mag2 = s.mag2 := rfl
@[simp] theorem decodeFinish_d (o : DecodeEnd) (re : Reason) (s : State) : (decodeFinish o re s).d = s.d := rfl
@[simp] theorem decodeFinish_c (o : DecodeEnd) (re : Reason) (s : State) : (decodeFinish o re s).c = s.c := rfl
@[simp] theorem decodeFinish_pending (o : DecodeEnd) (re : Reason) (s : State) : (decodeFinish o re s).pending = s.pending := rfl
@[simp] theorem decodeFinish_returned (o : DecodeEnd) (re : Reason) (s : State) : (decodeFinish o re s).returned = s.returned := rfl
@[simp] theorem decodeFinish_erred (o : DecodeEnd) (re : Reason) (s : State) : (decodeFinish o re s).erred = (s.erred || false) := rfl

/-! ### uncorrectable -/

@[simp] theorem uncorrectable_status (re : Reason) (s : State) : (uncorrectable re s).status = statusWord .ok .uncorrectable re 0 Instr.decode.opcode := rfl
@[simp] theorem uncorrectable_a (re : Reason) (s : State) : (uncorrectable re s).a = s.a := rfl
@[simp] theorem uncorrectable_b (re : Reason) (s : State) : (uncorrectable re s).b = s.b := rfl
@[simp] theorem uncorrectable_y (re : Reason) (s : State) : (uncorrectable re s).y = s.y := rfl
@[simp] theorem uncorrectable_s0 (re : Reason) (s : State) : (uncorrectable re s).s0 = s.s0 := rfl
@[simp] theorem uncorrectable_s1 (re : Reason) (s : State) : (uncorrectable re s).s1 = s.s1 := rfl
@[simp] theorem uncorrectable_s2 (re : Reason) (s : State) : (uncorrectable re s).s2 = s.s2 := rfl
@[simp] theorem uncorrectable_s3 (re : Reason) (s : State) : (uncorrectable re s).s3 = s.s3 := rfl
@[simp] theorem uncorrectable_p (re : Reason) (s : State) : (uncorrectable re s).p = s.p := rfl
@[simp] theorem uncorrectable_q (re : Reason) (s : State) : (uncorrectable re s).q = s.q := rfl
@[simp] theorem uncorrectable_r (re : Reason) (s : State) : (uncorrectable re s).r = s.r := rfl
@[simp] theorem uncorrectable_disc (re : Reason) (s : State) : (uncorrectable re s).disc = s.disc := rfl
@[simp] theorem uncorrectable_root (re : Reason) (s : State) : (uncorrectable re s).root = s.root := rfl
@[simp] theorem uncorrectable_pos1 (re : Reason) (s : State) : (uncorrectable re s).pos1 = s.pos1 := rfl
@[simp] theorem uncorrectable_pos2 (re : Reason) (s : State) : (uncorrectable re s).pos2 = s.pos2 := rfl
@[simp] theorem uncorrectable_mag1 (re : Reason) (s : State) : (uncorrectable re s).mag1 = s.mag1 := rfl
@[simp] theorem uncorrectable_mag2 (re : Reason) (s : State) : (uncorrectable re s).mag2 = s.mag2 := rfl
@[simp] theorem uncorrectable_d (re : Reason) (s : State) : (uncorrectable re s).d = s.d := rfl
@[simp] theorem uncorrectable_c (re : Reason) (s : State) : (uncorrectable re s).c = s.c := rfl
@[simp] theorem uncorrectable_pending (re : Reason) (s : State) : (uncorrectable re s).pending = s.pending := rfl
@[simp] theorem uncorrectable_returned (re : Reason) (s : State) : (uncorrectable re s).returned = s.returned := rfl
@[simp] theorem uncorrectable_erred (re : Reason) (s : State) : (uncorrectable re s).erred = (s.erred || false) := rfl

/-! ### deliverNext -/

@[simp] theorem deliverNext_status (e : Event) (s : State) : (deliverNext e s).status = s.status := rfl
@[simp] theorem deliverNext_a (e : Event) (s : State) : (deliverNext e s).a = s.a := rfl
@[simp] theorem deliverNext_b (e : Event) (s : State) : (deliverNext e s).b = s.b := rfl
@[simp] theorem deliverNext_y (e : Event) (s : State) : (deliverNext e s).y = s.y := rfl
@[simp] theorem deliverNext_s0 (e : Event) (s : State) : (deliverNext e s).s0 = s.s0 := rfl
@[simp] theorem deliverNext_s1 (e : Event) (s : State) : (deliverNext e s).s1 = s.s1 := rfl
@[simp] theorem deliverNext_s2 (e : Event) (s : State) : (deliverNext e s).s2 = s.s2 := rfl
@[simp] theorem deliverNext_s3 (e : Event) (s : State) : (deliverNext e s).s3 = s.s3 := rfl
@[simp] theorem deliverNext_p (e : Event) (s : State) : (deliverNext e s).p = s.p := rfl
@[simp] theorem deliverNext_q (e : Event) (s : State) : (deliverNext e s).q = s.q := rfl
@[simp] theorem deliverNext_r (e : Event) (s : State) : (deliverNext e s).r = s.r := rfl
@[simp] theorem deliverNext_disc (e : Event) (s : State) : (deliverNext e s).disc = s.disc := rfl
@[simp] theorem deliverNext_root (e : Event) (s : State) : (deliverNext e s).root = s.root := rfl
@[simp] theorem deliverNext_pos1 (e : Event) (s : State) : (deliverNext e s).pos1 = s.pos1 := rfl
@[simp] theorem deliverNext_pos2 (e : Event) (s : State) : (deliverNext e s).pos2 = s.pos2 := rfl
@[simp] theorem deliverNext_mag1 (e : Event) (s : State) : (deliverNext e s).mag1 = s.mag1 := rfl
@[simp] theorem deliverNext_mag2 (e : Event) (s : State) : (deliverNext e s).mag2 = s.mag2 := rfl
@[simp] theorem deliverNext_d (e : Event) (s : State) : (deliverNext e s).d = s.d := rfl
@[simp] theorem deliverNext_c (e : Event) (s : State) : (deliverNext e s).c = s.c := rfl
@[simp] theorem deliverNext_pending (e : Event) (s : State) : (deliverNext e s).pending = e :: s.pending := rfl
@[simp] theorem deliverNext_returned (e : Event) (s : State) : (deliverNext e s).returned = s.returned := rfl
@[simp] theorem deliverNext_erred (e : Event) (s : State) : (deliverNext e s).erred = s.erred := rfl

/-! ### resetRegisters -/

@[simp] theorem resetRegisters_status (s : State) : (resetRegisters s).status = State.reset.status := rfl
@[simp] theorem resetRegisters_a (s : State) : (resetRegisters s).a = State.reset.a := rfl
@[simp] theorem resetRegisters_b (s : State) : (resetRegisters s).b = State.reset.b := rfl
@[simp] theorem resetRegisters_y (s : State) : (resetRegisters s).y = State.reset.y := rfl
@[simp] theorem resetRegisters_s0 (s : State) : (resetRegisters s).s0 = State.reset.s0 := rfl
@[simp] theorem resetRegisters_s1 (s : State) : (resetRegisters s).s1 = State.reset.s1 := rfl
@[simp] theorem resetRegisters_s2 (s : State) : (resetRegisters s).s2 = State.reset.s2 := rfl
@[simp] theorem resetRegisters_s3 (s : State) : (resetRegisters s).s3 = State.reset.s3 := rfl
@[simp] theorem resetRegisters_p (s : State) : (resetRegisters s).p = State.reset.p := rfl
@[simp] theorem resetRegisters_q (s : State) : (resetRegisters s).q = State.reset.q := rfl
@[simp] theorem resetRegisters_r (s : State) : (resetRegisters s).r = State.reset.r := rfl
@[simp] theorem resetRegisters_disc (s : State) : (resetRegisters s).disc = State.reset.disc := rfl
@[simp] theorem resetRegisters_root (s : State) : (resetRegisters s).root = State.reset.root := rfl
@[simp] theorem resetRegisters_pos1 (s : State) : (resetRegisters s).pos1 = State.reset.pos1 := rfl
@[simp] theorem resetRegisters_pos2 (s : State) : (resetRegisters s).pos2 = State.reset.pos2 := rfl
@[simp] theorem resetRegisters_mag1 (s : State) : (resetRegisters s).mag1 = State.reset.mag1 := rfl
@[simp] theorem resetRegisters_mag2 (s : State) : (resetRegisters s).mag2 = State.reset.mag2 := rfl
@[simp] theorem resetRegisters_d (s : State) : (resetRegisters s).d = State.reset.d := rfl
@[simp] theorem resetRegisters_c (s : State) : (resetRegisters s).c = State.reset.c := rfl
@[simp] theorem resetRegisters_pending (s : State) : (resetRegisters s).pending = s.pending := rfl
@[simp] theorem resetRegisters_returned (s : State) : (resetRegisters s).returned = s.returned := rfl
@[simp] theorem resetRegisters_erred (s : State) : (resetRegisters s).erred = s.erred := rfl

/-! ### Digits -/

@[simp] theorem Digits.get_set_self (v : Digits) (i : Fin 10) (x : Nibble) : (v.set i x).get i = x := by
  fin_cases i <;> rfl

@[simp] theorem Digits.get_set_of_ne (v : Digits) (i j : Fin 10) (x : Nibble) (h : j ≠ i) :
    (v.set i x).get j = v.get j := by
  fin_cases i <;> fin_cases j <;> first | rfl | exact absurd rfl h

/-- Two words with the same digit at every position are the same word. -/
theorem Digits.ext_get (v w : Digits) (h : ∀ i, v.get i = w.get i) : v = w := by
  have h0 := h 0; have h1 := h 1; have h2 := h 2; have h3 := h 3; have h4 := h 4
  have h5 := h 5; have h6 := h 6; have h7 := h 7; have h8 := h 8; have h9 := h 9
  cases v; cases w
  simp only [Digits.get] at h0 h1 h2 h3 h4 h5 h6 h7 h8 h9
  simp [*]

@[simp] theorem Digits.get_zero (i : Fin 10) : Digits.zero.get i = 0 := by fin_cases i <;> rfl

@[simp] theorem Digits.set_get_self (v : Digits) (i : Fin 10) : v.set i (v.get i) = v := by fin_cases i <;> rfl

end Sys2Proof.Machine
end

