-- ==== Sys2Proof/Laws/Operands.lean ====
section
/-! SUPPORT. What the operand checks answer: digits (R144), positions (R167), and the weighted sums (R140 to R142). -/

namespace Sys2Proof.Machine

/-! ### The digit check -/

/-- No value of 10 or more is found exactly where there is none. -/
theorem firstTenOrMore_eq_none_iff (pos : Nat) (l : List Nibble) :
    firstTenOrMore pos l = none ↔ ∀ x ∈ l, Decimal x := by
  induction l generalizing pos with
  | nil => simp [firstTenOrMore]
  | cons x rest ih =>
    simp only [firstTenOrMore, List.forall_mem_cons]
    split
    · next h => simp only [reduceCtorEq, false_iff]; omega
    · next h => rw [ih]; simp only [iff_and_self]; omega

/-- The position found is that of the first value of 10 or more. -/
theorem firstTenOrMore_eq_some (pos : Nat) (l : List Nibble) (k : Nat) (hk : k < l.length)
    (hbad : 10 ≤ (l[k]).toNat) (hbefore : ∀ j, (hj : j < k) → Decimal (l[j])) :
    firstTenOrMore pos l = some (pos + k) := by
  induction l generalizing pos k with
  | nil => simp at hk
  | cons x rest ih =>
    cases k with
    | zero => exact if_pos hbad
    | succ k =>
      have h0 : Decimal x := hbefore 0 (by omega)
      have hrest := ih (pos + 1) k (by simpa using hk) (by simpa using hbad)
        fun j hj => by simpa using hbefore (j + 1) (by omega)
      simp only [firstTenOrMore, hrest]
      rw [if_neg (by omega)]
      congr 1
      omega

/-- A position found lies in the list, and its value is 10 or more. -/
theorem firstTenOrMore_some (pos p : Nat) (l : List Nibble) (h : firstTenOrMore pos l = some p) :
    pos ≤ p ∧ p < pos + l.length := by
  induction l generalizing pos with
  | nil => simp [firstTenOrMore] at h
  | cons x rest ih =>
    simp only [firstTenOrMore] at h
    split at h
    · simp only [Option.some.injEq] at h
      simp only [List.length_cons]
      omega
    · have := ih (pos + 1) h
      simp only [List.length_cons]
      omega

@[simp] theorem Digits.length_toList (v : Digits) : v.toList.length = 10 := rfl

/-- The list of a word's digits holds the digit of each position in its place. -/
theorem Digits.getElem_toList (v : Digits) (i : Fin 10) : v.toList[i.val]'(by simp) = v.get i := by
  fin_cases i <;> rfl

/-- A word's digits, as members of its list. -/
theorem Digits.forall_mem_toList (v : Digits) (p : Nibble → Prop) : (∀ x ∈ v.toList, p x) ↔ ∀ i, p (v.get i) := by
  constructor
  · intro h i
    exact h _ (v.getElem_toList i ▸ List.getElem_mem _)
  · intro h x hx
    obtain ⟨k, hk, rfl⟩ := List.mem_iff_getElem.mp hx
    exact v.getElem_toList ⟨k, hk⟩ ▸ h _

@[simp] theorem length_payload (s : State) : (payload s).length = 6 := rfl

/-- The payload holds the digits of positions 1 to 6. -/
theorem payload_getElem (s : State) (j : Nat) (hj : j < 6) :
    (payload s)[j]'(by simpa using hj) = s.d.get ⟨j, by omega⟩ := by
  interval_cases j <;> rfl

/-- The payload's digits, as members of its list. -/
theorem forall_mem_payload (s : State) (p : Nibble → Prop) :
    (∀ x ∈ payload s, p x) ↔ ∀ i : Fin 10, i < 6 → p (s.d.get i) := by
  constructor
  · intro h i hi
    exact payload_getElem s i.val (Fin.lt_def.mp hi) ▸ h _ (List.getElem_mem _)
  · intro h x hx
    obtain ⟨k, hk, rfl⟩ := List.mem_iff_getElem.mp hx
    exact payload_getElem s k (by simpa using hk) ▸ h _ (Fin.lt_def.mpr (by simpa using hk))

/-- `checkdigits` passes exactly the decimal digits (R144). -/
theorem checkDigits_eq_ok_iff (l : List Nibble) (u : Unit) : checkDigits l = .ok u ↔ ∀ x ∈ l, Decimal x := by
  rw [← firstTenOrMore_eq_none_iff 1, checkDigits]
  split <;> simp_all

/-- What `checkdigits` raises: INVALID_DIGIT at a position of the word (R144). -/
theorem checkDigits_error (l : List Nibble) (e : Raise) (h : checkDigits l = .error e) :
    e.code = .invalidDigit ∧ ∃ p, 1 ≤ p ∧ p ≤ l.length ∧ e.errpos = BitVec.ofNat 4 p := by
  rw [checkDigits] at h
  split at h
  · next pos hp =>
    have := firstTenOrMore_some _ _ _ hp
    cases h
    exact ⟨rfl, pos, by omega, by omega, rfl⟩
  · cases h

/-- What `raise Error(UNUSABLE, 7 + k)` raises: UNUSABLE at the position of a check digit (R146). -/
theorem checkUsable_error (l : List Residue) (e : Raise) (h : checkUsable l = .error e) :
    e.code = .unusable ∧ ∃ p, 7 ≤ p ∧ p < 7 + l.length ∧ e.errpos = BitVec.ofNat 4 p := by
  rw [checkUsable] at h
  split at h
  · next pos hp =>
    have := firstTenOrMore_some _ _ _ hp
    cases h
    exact ⟨rfl, pos, by omega, by omega, rfl⟩
  · cases h

/-- Ten decimal digits pass the check of SYND and DECODE, and nothing else does (R144). -/
theorem checkDigits_receivedWord_iff (s : State) (u : Unit) :
    checkDigits (receivedWord s) = .ok u ↔ s.d.AllDecimal := by
  rw [checkDigits_eq_ok_iff]
  exact s.d.forall_mem_toList _

/-- The check of SYND and DECODE raises INVALID_DIGIT at the first bad digit (R144). -/
theorem checkDigits_receivedWord_error (s : State) (i : Fin 10) (h : FirstBadDigit s.d i) :
    checkDigits (receivedWord s) = .error ⟨.invalidDigit, BitVec.ofNat 4 (i.val + 1)⟩ := by
  have hp : firstTenOrMore 1 (receivedWord s) = some (1 + i.val) :=
    firstTenOrMore_eq_some _ _ _ (by simp [receivedWord]) (s.d.getElem_toList i ▸ h.1)
      fun j hj => s.d.getElem_toList ⟨j, by omega⟩ ▸ h.2 _ (Fin.lt_def.mpr hj)
  rw [checkDigits, hp, Nat.add_comm 1]

/-- The check of CHECK raises INVALID_DIGIT at the first bad digit of the payload (R144). -/
theorem checkDigits_payload_error (s : State) (i : Fin 10) (hi : i < 6) (h : FirstBadDigit s.d i) :
    checkDigits (payload s) = .error ⟨.invalidDigit, BitVec.ofNat 4 (i.val + 1)⟩ := by
  have hi6 : i.val < 6 := Fin.lt_def.mp hi
  have hp : firstTenOrMore 1 (payload s) = some (1 + i.val) :=
    firstTenOrMore_eq_some _ _ _ (by simpa using hi6) (payload_getElem s i.val hi6 ▸ h.1)
      fun j hj => payload_getElem s j (by omega) ▸ h.2 _ (Fin.lt_def.mpr hj)
  rw [checkDigits, hp, Nat.add_comm 1]

/-! ### Positions -/

/-- A residue of 1 to 10 indexes the digit at that position, and no other residue indexes one (R167). -/
theorem digitAt_eq_some_iff (pos : Residue) (i : Fin 10) : digitAt pos = some i ↔ pos.toNat = i.val + 1 := by
  revert pos i
  decide

theorem digitAt_eq_none_iff (pos : Residue) (h : pos.toNat ≤ 10) : digitAt pos = none ↔ pos = 0 := by
  revert pos
  decide

/-! ### Weighted sums -/

/-- The lanes of the table W_SYN are the power sums of the digits (R140, R141). -/
theorem wsum_wSyn_toNat (s : State) (k : Fin 4) :
    (wsum (wSyn k) (receivedWord s)).toNat = syndromeOf k.val s.d := by
  have h := mod11_toNat (weightedSum (wSyn k) (receivedWord s))
  have hs : weightedSum (wSyn k) (receivedWord s) % 11 = syndromeOf k.val s.d := by
    fin_cases k <;>
      simp [weightedSum, wSyn, receivedWord, Digits.toList, syndromeOf] <;> omega
  simp only [wsum]
  omega

/-- The lanes of the table W_CHK are the check values of the payload (R140, R142). -/
theorem wsum_wChk_toNat (s : State) (k : Fin 4) : (wsum (wChk k) (payload s)).toNat = checkValue s.d k := by
  have h := mod11_toNat (weightedSum (wChk k) (payload s))
  have hs : weightedSum (wChk k) (payload s) % 11 = checkValue s.d k := by
    fin_cases k <;> simp [weightedSum, wChk, payload, Digits.toList, checkValue, Digits.get] <;> omega
  simp only [wsum]
  omega

theorem syndromeOf_lt (k : Nat) (v : Digits) : syndromeOf k v < 11 := Nat.mod_lt _ (by decide)

theorem checkValue_lt (v : Digits) (k : Fin 4) : checkValue v k < 11 := by
  fin_cases k <;> exact Nat.mod_lt _ (by decide)

end Sys2Proof.Machine
end

