-- ==== Sys2Proof/Laws/Exec.lean ====
section
/-! SUPPORT. What a command can do: one inversion lemma per shared operation of the meanings. -/

namespace Sys2Proof.Machine

/-- An MAU command ends with its result in Y, or with its error and Y zeroed (40_modular_arithmetic section 2). -/
theorem mauEnd_cases (i : Instr) (r : Except Raise Residue) (s t : State) (h : mauEnd i r s = .next t) :
    (∃ v, r = .ok v ∧ t = finishOk i.opcode { s with y := v }) ∨
    (∃ e, r = .error e ∧ t = raiseError .mau i.opcode e s) := by
  cases r with
  | ok v => exact .inl ⟨v, rfl, by simpa [mauEnd, eq_comm] using h⟩
  | error e => exact .inr ⟨e, rfl, by simpa [mauEnd, eq_comm] using h⟩

/-- An MAU command completes whatever its operands answer. -/
theorem mauEnd_completes (i : Instr) (r : Except Raise Residue) (s : State) : ∃ t, mauEnd i r s = .next t := by
  cases r <;> exact ⟨_, rfl⟩

/-- CHECK ends with the codeword in C, or with its error and C zeroed (R146). -/
theorem execCheck_cases (s t : State) (h : execCheck s = .next t) :
    (checkDigits (payload s) = .ok () ∧ checkUsable (checkValues (payload s)) = .ok () ∧
      t = finishOk Instr.check.opcode { s with c := codeword s }) ∨
    (∃ e, (checkDigits (payload s) = .error e ∨ checkUsable (checkValues (payload s)) = .error e) ∧
      t = raiseError .check Instr.check.opcode e s) := by
  rw [execCheck] at h
  cases h1 : checkDigits (payload s) with
  | error e =>
    simp only [h1, bind, Except.bind, Host.Outcome.next.injEq] at h
    exact .inr ⟨e, .inl rfl, h.symm⟩
  | ok u =>
    cases h2 : checkUsable (checkValues (payload s)) with
    | error e =>
      simp only [h1, h2, bind, Except.bind, Host.Outcome.next.injEq] at h
      exact .inr ⟨e, .inr rfl, h.symm⟩
    | ok u =>
      simp only [h1, h2, bind, Except.bind, Host.Outcome.next.injEq] at h
      exact .inl ⟨rfl, rfl, h.symm⟩

/-- SYND ends with the syndrome in S0..S3, or with its error and S0..S3 zeroed (R147). -/
theorem execSynd_cases (s t : State) (h : execSynd s = .next t) :
    (s.d.AllDecimal ∧ t = finishOk Instr.synd.opcode (loadSyndrome s)) ∨
    (∃ e, checkDigits (receivedWord s) = .error e ∧ t = raiseError .synd Instr.synd.opcode e s) := by
  rw [execSynd] at h
  split at h
  · next u hu => exact .inl ⟨(checkDigits_receivedWord_iff s u).mp hu, by simpa [eq_comm] using h⟩
  · next e he => exact .inr ⟨e, he, by simpa [eq_comm] using h⟩

/-- DECODE ends by the dispatch on its syndrome, or with its error and its write set zeroed (R160, R161). -/
theorem execDecode_cases (s t : State) (h : execDecode s = .next t) :
    (s.d.AllDecimal ∧ t = dispatchSyndrome (decodeStart s)) ∨
    (∃ e, checkDigits (receivedWord s) = .error e ∧ t = raiseError .decode Instr.decode.opcode e s) := by
  rw [execDecode] at h
  split at h
  · next u hu => exact .inl ⟨(checkDigits_receivedWord_iff s u).mp hu, by simpa [eq_comm] using h⟩
  · next e he => exact .inr ⟨e, he, by simpa [eq_comm] using h⟩

/-- DECODE of ten decimal digits is the dispatch on its syndrome (R160). -/
theorem execDecode_decimal (s : State) (h : s.d.AllDecimal) :
    execDecode s = .next (dispatchSyndrome (decodeStart s)) := by
  simp only [execDecode, (checkDigits_receivedWord_iff s ()).mpr h]

/-- How the single-error branch can end (R165 to R169). -/
theorem singleBranch_cases (s : State) :
    (rdiv s.s1 s.s0 = none ∧ singleBranch s = uncorrectable .divisionError s) ∨
    (∃ pos, rdiv s.s1 s.s0 = some pos ∧ digitAt pos = none ∧ singleBranch s = uncorrectable .positionZero s) ∨
    (∃ pos i, rdiv s.s1 s.s0 = some pos ∧ digitAt pos = some i ∧
      singleBranch s = decodeFinish .single .noReason
        { s with c := s.c.set i (rsub (s.d.get i) s.s0), pos1 := pos, mag1 := s.s0 }) := by
  rw [singleBranch]
  split
  · next h => exact .inl ⟨h, rfl⟩
  · next pos h =>
    split
    · next hi => exact .inr (.inl ⟨pos, h, hi, rfl⟩)
    · next i hi => exact .inr (.inr ⟨pos, i, h, hi, rfl⟩)

/-- How steps 5d to 5g can end (R173 to R176). -/
theorem correctTwo_cases (pos1 pos2 : Residue) (i1 i2 : Fin 10) (s : State) :
    (rdiv (rsub (rmul pos1 s.s0) s.s1) (rsub pos1 pos2) = none ∧
      correctTwo pos1 pos2 i1 i2 s = uncorrectable .divisionError s) ∨
    (∃ mag2, rdiv (rsub (rmul pos1 s.s0) s.s1) (rsub pos1 pos2) = some mag2 ∧
      correctTwo pos1 pos2 i1 i2 s = uncorrectable .correctedToTen s) ∨
    (∃ mag2 n1 n2, rdiv (rsub (rmul pos1 s.s0) s.s1) (rsub pos1 pos2) = some mag2 ∧
      n1 = mod11 ((s.d.get i1).toNat + (11 - (rsub s.s0 mag2).toNat)) ∧
      n2 = mod11 ((s.d.get i2).toNat + (11 - mag2.toNat)) ∧ Decimal n1 ∧ Decimal n2 ∧
      correctTwo pos1 pos2 i1 i2 s = decodeFinish .double .noReason
        { s with
          c := (s.c.set i1 n1).set i2 n2, pos1 := pos1, pos2 := pos2, mag1 := rsub s.s0 mag2, mag2 := mag2 }) := by
  rw [correctTwo]
  split
  · next h => exact .inl ⟨h, rfl⟩
  · next mag2 h =>
    dsimp only
    split
    · exact .inr (.inl ⟨mag2, h, rfl⟩)
    · next hn => exact .inr (.inr ⟨mag2, _, _, h, rfl, rfl, by omega, by omega, rfl⟩)

/-- How steps 5b to 5g can end: uncorrectable, or by the correction of two digits (R171 to R176). -/
theorem locateTwo_cases (root : Residue) (s : State) :
    (∃ re, re ≠ .noReason ∧ locateTwo root s = uncorrectable re s) ∨
    (∃ pos1 pos2 i1 i2 mag2 n1 n2,
      rdiv (rsub root s.q) (rmul 2 s.p) = some pos1 ∧ rdiv (rsub (rneg s.q) root) (rmul 2 s.p) = some pos2 ∧
      digitAt pos1 = some i1 ∧ digitAt pos2 = some i2 ∧
      rdiv (rsub (rmul pos1 s.s0) s.s1) (rsub pos1 pos2) = some mag2 ∧
      n1 = mod11 ((s.d.get i1).toNat + (11 - (rsub s.s0 mag2).toNat)) ∧
      n2 = mod11 ((s.d.get i2).toNat + (11 - mag2.toNat)) ∧ Decimal n1 ∧ Decimal n2 ∧
      locateTwo root s = decodeFinish .double .noReason
        { s with
          c := (s.c.set i1 n1).set i2 n2, pos1 := pos1, pos2 := pos2, mag1 := rsub s.s0 mag2, mag2 := mag2 }) := by
  rw [locateTwo]
  split
  · next pos1 pos2 h1 h2 =>
    split
    · next i1 i2 hi1 hi2 =>
      rcases correctTwo_cases pos1 pos2 i1 i2 s with ⟨-, h⟩ | ⟨m, -, h⟩ | ⟨m, n1, n2, hm, e1, e2, d1, d2, h⟩
      · exact .inl ⟨_, by decide, h⟩
      · exact .inl ⟨_, by decide, h⟩
      · exact .inr ⟨pos1, pos2, i1, i2, m, n1, n2, h1, h2, hi1, hi2, hm, e1, e2, d1, d2, h⟩
    · exact .inl ⟨_, by decide, rfl⟩
  · exact .inl ⟨_, by decide, rfl⟩

/-- How the double-error branch can end: without a root, or as steps 5b to 5g with one (R170). -/
theorem doubleBranch_cases (s : State) :
    let disc := rsub (rmul s.q s.q) (rmul 4 (rmul s.p s.r))
    (rsqrt disc = none ∧ doubleBranch s = uncorrectable .noValidRoots { s with disc := disc }) ∨
    (∃ root, rsqrt disc = some root ∧ doubleBranch s = locateTwo root { s with disc := disc, root := root }) := by
  intro disc
  unfold doubleBranch
  dsimp only
  split
  · next h => exact .inl ⟨h, rfl⟩
  · next root h => exact .inr ⟨root, h, rfl⟩

/-- Every command ends through `finish`: it leaves A, B, D, the events to come and what was read as they were, and writes
STATUS whole, with an outcome from DECODE alone (R15, R24, R203). -/
structure EndsCommand (op : BitVec 4) (s t : State) : Prop where
  a : t.a = s.a
  b : t.b = s.b
  d : t.d = s.d
  pending : t.pending = s.pending
  returned : t.returned = s.returned
  status : ∃ err outcome reason errpos, t.status = statusWord err outcome reason errpos op ∧
    t.erred = (s.erred || err != .ok)

/-- A command may first set registers that it writes. -/
theorem EndsCommand.of_start {op : BitVec 4} {s s' t : State} (h : EndsCommand op s' t) (ha : s'.a = s.a)
    (hb : s'.b = s.b) (hd : s'.d = s.d) (hp : s'.pending = s.pending) (hr : s'.returned = s.returned)
    (he : s'.erred = s.erred) : EndsCommand op s t := by
  obtain ⟨a, b, d, p, r, e, o, re, pos, h1, h2⟩ := h
  exact ⟨a.trans ha, b.trans hb, d.trans hd, p.trans hp, r.trans hr, e, o, re, pos, h1, by rw [h2, he]⟩

theorem finishOk_endsCommand (op : BitVec 4) (s s' : State) (ha : s'.a = s.a) (hb : s'.b = s.b) (hd : s'.d = s.d)
    (hp : s'.pending = s.pending) (hr : s'.returned = s.returned) (he : s'.erred = s.erred) :
    EndsCommand op s (finishOk op s') :=
  ⟨ha, hb, hd, hp, hr, _, _, _, _, rfl, by simp [he]⟩

theorem raiseError_endsCommand (ws : WriteSet) (op : BitVec 4) (e : Raise) (s : State) :
    EndsCommand op s (raiseError ws op e s) :=
  ⟨by simp, by simp, by simp, by simp, by simp, _, _, _, _, rfl, by simp⟩

theorem decodeFinish_endsCommand (o : DecodeEnd) (re : Reason) (s s' : State) (ha : s'.a = s.a) (hb : s'.b = s.b)
    (hd : s'.d = s.d) (hp : s'.pending = s.pending) (hr : s'.returned = s.returned) (he : s'.erred = s.erred) :
    EndsCommand Instr.decode.opcode s (decodeFinish o re s') :=
  ⟨ha, hb, hd, hp, hr, _, _, _, _, rfl, by simp [he]⟩

theorem mauEnd_endsCommand (i : Instr) (r : Except Raise Residue) (s t : State) (h : mauEnd i r s = .next t) :
    EndsCommand i.opcode s t := by
  rcases mauEnd_cases i r s t h with ⟨v, -, rfl⟩ | ⟨e, -, rfl⟩
  · exact finishOk_endsCommand _ _ _ rfl rfl rfl rfl rfl rfl
  · exact raiseError_endsCommand _ _ _ _

theorem singleBranch_endsCommand (s : State) : EndsCommand Instr.decode.opcode s (singleBranch s) := by
  rcases singleBranch_cases s with ⟨-, h⟩ | ⟨_, -, -, h⟩ | ⟨_, _, -, -, h⟩ <;> rw [h] <;>
    exact decodeFinish_endsCommand _ _ _ _ rfl rfl rfl rfl rfl rfl

theorem locateTwo_endsCommand (root : Residue) (s : State) : EndsCommand Instr.decode.opcode s (locateTwo root s) := by
  rcases locateTwo_cases root s with ⟨_, -, h⟩ | ⟨_, _, _, _, _, _, _, -, -, -, -, -, -, -, -, -, h⟩ <;> rw [h] <;>
    exact decodeFinish_endsCommand _ _ _ _ rfl rfl rfl rfl rfl rfl

theorem doubleBranch_endsCommand (s : State) : EndsCommand Instr.decode.opcode s (doubleBranch s) := by
  rcases doubleBranch_cases s with ⟨-, h⟩ | ⟨root, -, h⟩ <;> rw [h]
  · exact decodeFinish_endsCommand _ _ _ _ rfl rfl rfl rfl rfl rfl
  · exact (locateTwo_endsCommand root _).of_start rfl rfl rfl rfl rfl rfl

theorem dispatchSyndrome_endsCommand (s : State) : EndsCommand Instr.decode.opcode s (dispatchSyndrome s) := by
  rw [dispatchSyndrome]
  split
  · exact decodeFinish_endsCommand _ _ _ _ rfl rfl rfl rfl rfl rfl
  · rw [solve]
    split
    · apply (singleBranch_endsCommand (loadCoefficients s)).of_start <;> simp only [loadCoefficients]
    · apply (doubleBranch_endsCommand (loadCoefficients s)).of_start <;> simp only [loadCoefficients]

/-- Every command ends through `finish` (R15). -/
theorem exec_endsCommand (i : Instr) (s t : State) (h : exec i s = .next t) : EndsCommand i.opcode s t := by
  cases i with
  | check =>
    rcases execCheck_cases s t h with ⟨-, -, rfl⟩ | ⟨e, -, rfl⟩
    · exact finishOk_endsCommand _ _ _ rfl rfl rfl rfl rfl rfl
    · exact raiseError_endsCommand _ _ _ _
  | synd =>
    rcases execSynd_cases s t h with ⟨-, rfl⟩ | ⟨e, -, rfl⟩
    · apply finishOk_endsCommand <;> simp only [loadSyndrome]
    · exact raiseError_endsCommand _ _ _ _
  | decode =>
    rcases execDecode_cases s t h with ⟨-, rfl⟩ | ⟨e, -, rfl⟩
    · apply (dispatchSyndrome_endsCommand (decodeStart s)).of_start <;> simp only [decodeStart, loadSyndrome]
    · exact raiseError_endsCommand _ _ _ _
  | _ =>
    simp only [exec, execNew, execAdd, execSub, execMul, execDiv, execPow, execSqrt, execEq] at h
    exact mauEnd_endsCommand _ _ _ _ h

/-- No command stops the block (R60, R227). -/
theorem exec_completes (i : Instr) (s : State) : ∃ t, exec i s = .next t := by
  cases i with
  | check => simp only [exec, execCheck]; split <;> exact ⟨_, rfl⟩
  | synd => simp only [exec, execSynd]; split <;> exact ⟨_, rfl⟩
  | decode => simp only [exec, execDecode]; split <;> exact ⟨_, rfl⟩
  | _ =>
    simp only [exec, execNew, execAdd, execSub, execMul, execDiv, execPow, execSqrt, execEq]
    exact mauEnd_completes _ _ _

end Sys2Proof.Machine
end

