-- ==== Sys2Proof/Laws/Decode.lean ====
section
/-! SUPPORT. DECODE's registers as the integer quantities of Safety.lean: the syndrome, P, Q, R and the discriminant
(R161 to R170), and which branch a word takes (R162, R164). -/

namespace Sys2Proof.Machine

/-- An integer of 0 to 10 written to a 4-bit register reads back as itself. -/
theorem ofInt_toNat (v : Int) (h0 : 0 ≤ v) (h1 : v < 11) : ((BitVec.ofInt 4 v).toNat : Int) = v := by
  rw [BitVec.toNat_ofInt]
  omega

theorem ofInt_eq_zero_iff (v : Int) (h0 : 0 ≤ v) (h1 : v < 11) : BitVec.ofInt 4 v = 0 ↔ v = 0 := by
  constructor
  · intro h
    have := ofInt_toNat v h0 h1
    rw [h] at this
    simpa using this.symm
  · rintro rfl
    rfl

theorem mod11_eq_ofInt (v : Int) : mod11 v = BitVec.ofInt 4 (v % 11) := by
  apply BitVec.eq_of_toNat_eq
  have h1 := mod11_toNat v
  have h2 := ofInt_toNat (v % 11) (by omega) (by omega)
  omega

/-- A residue is the register value of its own integer. -/
theorem ofInt_of_toNat (x : Residue) : BitVec.ofInt 4 (x.toNat : Int) = x := by
  apply BitVec.eq_of_toNat_eq
  rw [BitVec.toNat_ofInt]
  have := x.isLt
  omega

theorem syn_nonneg (v : Digits) (k : Nat) : 0 ≤ syn v k := by simp [syn]
theorem syn_lt (v : Digits) (k : Nat) : syn v k < 11 := by simpa [syn] using syndromeOf_lt k v

theorem coefP_nonneg (v : Digits) : 0 ≤ coefP v := Int.emod_nonneg _ (by decide)
theorem coefP_lt (v : Digits) : coefP v < 11 := Int.emod_lt_of_pos _ (by decide)
theorem coefQ_nonneg (v : Digits) : 0 ≤ coefQ v := Int.emod_nonneg _ (by decide)
theorem coefQ_lt (v : Digits) : coefQ v < 11 := Int.emod_lt_of_pos _ (by decide)
theorem coefR_nonneg (v : Digits) : 0 ≤ coefR v := Int.emod_nonneg _ (by decide)
theorem coefR_lt (v : Digits) : coefR v < 11 := Int.emod_lt_of_pos _ (by decide)
theorem discOf_nonneg (v : Digits) : 0 ≤ discOf v := Int.emod_nonneg _ (by decide)
theorem discOf_lt (v : Digits) : discOf v < 11 := Int.emod_lt_of_pos _ (by decide)

theorem syn_reg_toNat (v : Digits) (k : Nat) : ((BitVec.ofInt 4 (syn v k)).toNat : Int) = syn v k :=
  ofInt_toNat _ (syn_nonneg v k) (syn_lt v k)
theorem coefP_reg_toNat (v : Digits) : ((BitVec.ofInt 4 (coefP v)).toNat : Int) = coefP v :=
  ofInt_toNat _ (coefP_nonneg v) (coefP_lt v)
theorem coefQ_reg_toNat (v : Digits) : ((BitVec.ofInt 4 (coefQ v)).toNat : Int) = coefQ v :=
  ofInt_toNat _ (coefQ_nonneg v) (coefQ_lt v)
theorem coefR_reg_toNat (v : Digits) : ((BitVec.ofInt 4 (coefR v)).toNat : Int) = coefR v :=
  ofInt_toNat _ (coefR_nonneg v) (coefR_lt v)
theorem discOf_reg_toNat (v : Digits) : ((BitVec.ofInt 4 (discOf v)).toNat : Int) = discOf v :=
  ofInt_toNat _ (discOf_nonneg v) (discOf_lt v)

/-- A difference of two products of registers, as one residue. -/
theorem rsub_rmul_rmul (a b c d : Residue) :
    rsub (rmul a b) (rmul c d) = mod11 ((a.toNat : Int) * b.toNat - c.toNat * d.toNat) := by
  rw [rsub, mod11_eq_iff, rmul_toNat, rmul_toNat]
  exact (Int.emod_sub_emod _ _ _).trans (Int.sub_emod_emod _ _ _)

/-- A factor may be reduced modulo 11 first. -/
theorem emod_mul_emod_eleven (a b : Int) : a % 11 * b % 11 = a * b % 11 := by
  rw [Int.mul_emod, Int.emod_emod, ← Int.mul_emod]

/-- A lane of the syndrome is the register value of the word's power sum (R141, R161). -/
theorem wsum_wSyn_eq (s : State) (k : Fin 4) :
    wsum (wSyn k) (receivedWord s) = BitVec.ofInt 4 (syn s.d k.val) := by
  rw [syn, ← wsum_wSyn_toNat s k, ofInt_of_toNat]

/-- Step 1 leaves the registers of `decodeBase` (R161). -/
theorem decodeStart_eq (s : State) : decodeStart s = s.decodeBase := by
  simp only [decodeStart, loadSyndrome, State.decodeBase, wsum_wSyn_eq]
  rfl

/-- Step 3 leaves the registers of `decodeLocated` (R163). -/
theorem loadCoefficients_eq (s : State) : loadCoefficients s.decodeBase = s.decodeLocated := by
  simp only [loadCoefficients, State.decodeLocated, State.decodeBase, rsub_rmul_rmul, syn_reg_toNat, mod11_eq_ofInt,
    coefP, coefQ, coefR, pow_two]

/-- The residue operations of step 5a compute Q² - 4·P·R (R170). -/
theorem discriminant_toNat (p q r : Residue) :
    ((rsub (rmul q q) (rmul 4 (rmul p r))).toNat : Int) = ((q.toNat : Int) ^ 2 - 4 * p.toNat * r.toNat) % 11 := by
  have hq := rmul_toNat q q
  have h4 := rmul_toNat 4 (rmul p r)
  have hpr := rmul_toNat p r
  have h4n : ((4 : Residue).toNat : Int) = 4 := rfl
  rw [h4n] at h4
  rw [rsub_toNat, hq, h4, hpr, pow_two, Int.mul_assoc 4]
  generalize (q.toNat : Int) * q.toNat = x
  generalize (p.toNat : Int) * r.toNat = y
  omega

/-- The discriminant of step 5a is DISC's value (R170). -/
theorem discriminant_eq (s : State) :
    rsub (rmul s.decodeLocated.q s.decodeLocated.q) (rmul 4 (rmul s.decodeLocated.p s.decodeLocated.r)) =
      BitVec.ofInt 4 (discOf s.d) := by
  apply BitVec.eq_of_toNat_eq
  have h := discriminant_toNat s.decodeLocated.p s.decodeLocated.q s.decodeLocated.r
  have hp : (s.decodeLocated.p.toNat : Int) = coefP s.d := coefP_reg_toNat s.d
  have hq : (s.decodeLocated.q.toNat : Int) = coefQ s.d := coefQ_reg_toNat s.d
  have hr : (s.decodeLocated.r.toNat : Int) = coefR s.d := coefR_reg_toNat s.d
  have hd := discOf_reg_toNat s.d
  rw [hp, hq, hr] at h
  rw [discOf] at hd
  rw [discOf]
  omega

/-- S0..S3 are 0 exactly when the syndrome is zero (R162). -/
theorem decodeBase_zero_iff (s : State) :
    (s.decodeBase.s0 = 0 ∧ s.decodeBase.s1 = 0 ∧ s.decodeBase.s2 = 0 ∧ s.decodeBase.s3 = 0) ↔ SyndromeZero s.d := by
  simp only [State.decodeBase, ofInt_eq_zero_iff _ (syn_nonneg _ _) (syn_lt _ _), SyndromeZero]

/-- P, Q and R are 0 exactly when the coefficients are (R164). -/
theorem decodeLocated_zero_iff (s : State) :
    (s.decodeLocated.p = 0 ∧ s.decodeLocated.q = 0 ∧ s.decodeLocated.r = 0) ↔
      (coefP s.d = 0 ∧ coefQ s.d = 0 ∧ coefR s.d = 0) := by
  simp only [State.decodeLocated, ofInt_eq_zero_iff _ (coefP_nonneg _) (coefP_lt _),
    ofInt_eq_zero_iff _ (coefQ_nonneg _) (coefQ_lt _), ofInt_eq_zero_iff _ (coefR_nonneg _) (coefR_lt _)]

/-- The dispatch of a decimal word, by its syndrome and its coefficients (R162, R164). -/
theorem execDecode_eq (s : State) (h : s.d.AllDecimal) :
    execDecode s = .next (
      if SyndromeZero s.d then decodeFinish .noError .noReason s.decodeBase
      else if coefP s.d = 0 ∧ coefQ s.d = 0 ∧ coefR s.d = 0 then singleBranch s.decodeLocated
      else doubleBranch s.decodeLocated) := by
  rw [execDecode_decimal s h, decodeStart_eq, dispatchSyndrome]
  simp only [decodeBase_zero_iff]
  congr 2
  rw [solve, loadCoefficients_eq]
  simp only [decodeLocated_zero_iff]

/-- The single-error branch of a decimal word (R164). -/
theorem execDecode_single (s : State) (h : s.d.AllDecimal) (hb : SingleErrorBranch s.d) :
    execDecode s = .next (singleBranch s.decodeLocated) := by
  rw [execDecode_eq s h, if_neg hb.1, if_pos hb.2]

/-- The double-error branch of a decimal word (R164). -/
theorem execDecode_double (s : State) (h : s.d.AllDecimal) (hb : DoubleErrorBranch s.d) :
    execDecode s = .next (doubleBranch s.decodeLocated) := by
  rw [execDecode_eq s h, if_neg hb.1, if_neg hb.2]

/-- With the smaller root of the discriminant, the double-error branch is steps 5b to 5g (R170). -/
theorem doubleBranch_root (s : State) (root : Nat) (h : SmallerRoot s.d root) :
    doubleBranch s.decodeLocated = locateTwo (BitVec.ofNat 4 root) (s.decodeRooted root) := by
  have hroot : rsqrt (BitVec.ofInt 4 (discOf s.d)) = some (BitVec.ofNat 4 root) := by
    rw [← h.2]
    obtain ⟨h5, -⟩ := h
    interval_cases root <;> decide
  rw [doubleBranch, discriminant_eq]
  simp only [hroot]
  rfl

/-- A quotient of registers, from the congruence that defines it (R105). -/
theorem rdiv_of_congr (a b : Residue) (k : Nat) (hb : b.toNat ≤ 10) (hk : k ≤ 10) (h0 : b ≠ 0)
    (h : ((b.toNat : Int) * k) % 11 = a.toNat) : rdiv a b = some (BitVec.ofNat 4 k) := by
  have hkn : (BitVec.ofNat 4 k).toNat = k := by simp only [BitVec.toNat_ofNat]; omega
  rw [rdiv_eq_some_iff a b _ hb (by omega) h0]
  apply BitVec.eq_of_toNat_eq
  have := rmul_toNat (BitVec.ofNat 4 k) b
  rw [hkn, Int.mul_comm, h] at this
  exact_mod_cast this

/-- A position's register value indexes its digit (R167). -/
@[simp] theorem digitAt_ofNat (i : Fin 10) : digitAt (BitVec.ofNat 4 (i.val + 1)) = some i := by
  revert i
  decide

end Sys2Proof.Machine
end

