-- ==== Sys2Proof/Laws/Flags.lean ====
section
/-! SUPPORT. The fields of a STATUS word that `finish` writes (R24 to R29). -/

namespace Sys2Proof.Machine

/-- The number of a word of two parts. -/
theorem toNat_append_eq {m n : Nat} (x : BitVec m) (y : BitVec n) : (x ++ y).toNat = x.toNat * 2 ^ n + y.toNat := by
  rw [BitVec.toNat_append, ← Nat.shiftLeft_add_eq_or_of_lt y.isLt, Nat.shiftLeft_eq]

/-- The number of a STATUS word, by the places of its fields (R24). -/
theorem statusWord_toNat (e : Err) (o : DecodeEnd) (r : Reason) (p l : BitVec 4) :
    (statusWord e o r p l).toNat =
      e.code.toNat + 16 * o.code.toNat + 256 * r.code.toNat + 4096 * p.toNat + 65536 * l.toNat := by
  simp only [statusWord, toNat_append_eq, BitVec.toNat_ofNat]
  omega

section
variable (e : Err) (o : DecodeEnd) (r : Reason) (p l : BitVec 4)

@[simp] theorem errField_statusWord : errField (statusWord e o r p l) = e.code := by
  apply BitVec.eq_of_toNat_eq
  have := statusWord_toNat e o r p l
  have := e.code.isLt
  rw [errField, BitVec.extractLsb'_toNat, Nat.shiftRight_eq_div_pow]
  omega

@[simp] theorem outcomeField_statusWord : outcomeField (statusWord e o r p l) = o.code := by
  apply BitVec.eq_of_toNat_eq
  have := statusWord_toNat e o r p l
  have := e.code.isLt
  have := o.code.isLt
  rw [outcomeField, BitVec.extractLsb'_toNat, Nat.shiftRight_eq_div_pow]
  omega

@[simp] theorem reasonField_statusWord : reasonField (statusWord e o r p l) = r.code := by
  apply BitVec.eq_of_toNat_eq
  have := statusWord_toNat e o r p l
  have := e.code.isLt
  have := o.code.isLt
  have := r.code.isLt
  rw [reasonField, BitVec.extractLsb'_toNat, Nat.shiftRight_eq_div_pow]
  omega

@[simp] theorem errposField_statusWord : errposField (statusWord e o r p l) = p := by
  apply BitVec.eq_of_toNat_eq
  have := statusWord_toNat e o r p l
  have := e.code.isLt
  have := o.code.isLt
  have := r.code.isLt
  have := p.isLt
  rw [errposField, BitVec.extractLsb'_toNat, Nat.shiftRight_eq_div_pow]
  omega

@[simp] theorem lastopField_statusWord : lastopField (statusWord e o r p l) = l := by
  apply BitVec.eq_of_toNat_eq
  have := statusWord_toNat e o r p l
  have := e.code.isLt
  have := o.code.isLt
  have := r.code.isLt
  have := p.isLt
  have := l.isLt
  rw [lastopField, BitVec.extractLsb'_toNat, Nat.shiftRight_eq_div_pow]
  omega

/-- The reserved bits of STATUS read 0 (R24). -/
theorem reserved_statusWord :
    (statusWord e o r p l).extractLsb' 20 12 = 0#12 ∧ (statusWord e o r p l).extractLsb' 11 1 = 0#1 ∧
      (statusWord e o r p l).extractLsb' 7 1 = 0#1 := by
  have := statusWord_toNat e o r p l
  have := e.code.isLt
  have := o.code.isLt
  have := r.code.isLt
  have := p.isLt
  have := l.isLt
  refine ⟨?_, ?_, ?_⟩ <;> apply BitVec.eq_of_toNat_eq <;>
    rw [BitVec.extractLsb'_toNat, Nat.shiftRight_eq_div_pow] <;> simp only [BitVec.toNat_ofNat] <;> omega

end

theorem Err.code_eq_zero_iff (e : Err) : e.code = 0 ↔ e = .ok := by cases e <;> decide
theorem Err.code_toNat_le (e : Err) : e.code.toNat ≤ 7 := by cases e <;> decide
theorem DecodeEnd.code_toNat_le (o : DecodeEnd) : o.code.toNat ≤ 4 := by cases o <;> decide
theorem Reason.code_toNat_le (r : Reason) : r.code.toNat ≤ 4 := by cases r <;> decide
theorem Err.code_inj (e e' : Err) (h : e.code = e'.code) : e = e' := by
  revert h
  cases e <;> cases e' <;> decide
theorem Reason.code_inj (r r' : Reason) (h : r.code = r'.code) : r = r' := by
  revert h
  cases r <;> cases r' <;> decide
theorem DecodeEnd.code_inj (o o' : DecodeEnd) (h : o.code = o'.code) : o = o' := by
  revert h
  cases o <;> cases o' <;> decide

end Sys2Proof.Machine
end

