-- ==== Sys2Proof/Laws/PerInstr.lean ====
section
/-! SUPPORT. Statements for every command as syntax, one lemma per constructor. -/

namespace Sys2Proof.Laws.LegalWord

/-- A command is well formed, its word is legal (R83), and the word's field OPC is its opcode of R82. -/
def Statement (i : Instr) : Prop := i.wf = true ∧ legalCommand (encode i) ∧ opcField (encode i) = i.opcode

theorem new : Statement .new := by unfold Statement; decide
theorem add : Statement .add := by unfold Statement; decide
theorem sub : Statement .sub := by unfold Statement; decide
theorem mul : Statement .mul := by unfold Statement; decide
theorem div : Statement .div := by unfold Statement; decide
theorem pow : Statement .pow := by unfold Statement; decide
theorem sqrt : Statement .sqrt := by unfold Statement; decide
theorem eq : Statement .eq := by unfold Statement; decide
theorem check : Statement .check := by unfold Statement; decide
theorem synd : Statement .synd := by unfold Statement; decide
theorem decode : Statement .decode := by unfold Statement; decide

end Sys2Proof.Laws.LegalWord
end

