-- ==== Sys2Proof/Laws/Port.lean ====
section
/-! SUPPORT. The register map and the port: what an index names, and what a step can do. -/

namespace Sys2Proof.Machine

/-! ### The register map -/

@[simp] theorem mem_positions (i : Fin 10) : i ∈ positions := by
  revert i
  decide

/-- Every register stands in the map. -/
theorem mem_registerMap (reg : Reg) : reg ∈ registerMap := by
  cases reg <;> simp [registerMap]

/-- A register is found at its index. -/
@[simp] theorem regAt_index (reg : Reg) : regAt reg.index = some reg := by
  cases reg with
  | d i => revert i; decide
  | c i => revert i; decide
  | _ => decide

/-- What is found at an index has that index. -/
theorem index_of_regAt (idx : RegIndex) (reg : Reg) (h : regAt idx = some reg) : reg.index = idx := by
  simpa using List.find?_some h

theorem regAt_eq_some_iff (idx : RegIndex) (reg : Reg) : regAt idx = some reg ↔ idx = reg.index :=
  ⟨fun h => (index_of_regAt idx reg h).symm, fun h => h ▸ regAt_index reg⟩

/-- The reserved indices are those where no register stands (R66). -/
theorem regAt_eq_none_iff (idx : RegIndex) : regAt idx = none ↔ ReservedIndex idx := by
  revert idx
  decide

@[simp] theorem busRead_index (reg : Reg) (s : State) : busRead reg.index s = readReg reg s := by
  simp [busRead]

/-- A register of the map reads the same after an update of the model's own fields. -/
@[simp] theorem readReg_with_pending (reg : Reg) (s : State) (l : List Event) :
    readReg reg { s with pending := l } = readReg reg s := by cases reg <;> rfl

@[simp] theorem readReg_with_returned (reg : Reg) (s : State) (l : List Word) :
    readReg reg { s with returned := l } = readReg reg s := by cases reg <;> rfl

/-! ### Delivery -/

/-- A step delivers the oldest event (R60). -/
theorem step_cons (s : State) (e : Event) (rest : List Event) (h : s.pending = e :: rest) :
    step s = deliver e { s with pending := rest } := by
  simp [step, portStep, h]

/-- A step without events waits (R221). -/
theorem step_nil (s : State) (h : s.pending = []) : step s = .next s := by
  simp [step, portStep, h]

/-- A write of CMD runs its command (R23, R63). -/
theorem busWrite_cmd (w : Word) (s : State) : busWrite 0x01 w s = executeCommand w s := by
  have h : regAt 0x01 = some Reg.cmd := regAt_index .cmd
  rw [busWrite, h]

/-- What a write transaction can do: run a command, store into a register, or nothing (R63). -/
theorem busWrite_cases (idx : RegIndex) (w : Word) (s : State) :
    (idx = 0x01 ∧ busWrite idx w s = executeCommand w s) ∨
    (∃ reg, idx = reg.index ∧ reg ≠ .cmd ∧ busWrite idx w s = .next (storeReg reg w s)) ∨
    (ReservedIndex idx ∧ busWrite idx w s = .next s) := by
  cases h : regAt idx with
  | none => exact .inr (.inr ⟨(regAt_eq_none_iff idx).mp h, by simp [busWrite, h]⟩)
  | some reg =>
    have hidx := (regAt_eq_some_iff idx reg).mp h
    by_cases hc : reg = .cmd
    · subst hc hidx
      exact .inl ⟨rfl, busWrite_cmd w s⟩
    · refine .inr (.inl ⟨reg, hidx, hc, ?_⟩)
      rw [busWrite, h]
      cases reg <;> first | rfl | exact absurd rfl hc

/-- What a CMD write can do: a command's meaning, or the illegal end (R81). -/
theorem executeCommand_cases (w : Word) (s t : State) (h : executeCommand w s = .next t) :
    (∃ i, decode w = .ok i ∧ exec i s = .next t) ∨
    (∃ e, decode w = .error e ∧ t = raiseError .nothing (opcField w) ⟨.illegal, 0⟩ s) := by
  rw [executeCommand] at h
  split at h
  · next i hi => exact .inl ⟨i, hi, h⟩
  · next e he => exact .inr ⟨e, he, by simpa [illegalCommand, eq_comm] using h⟩

/-- A CMD write never stops the block (R60). -/
theorem executeCommand_completes (w : Word) (s : State) : ∃ t, executeCommand w s = .next t := by
  rw [executeCommand]
  split
  · exact exec_completes _ _
  · exact ⟨_, rfl⟩

/-- What a step can do when it answers a next state. -/
theorem step_cases (s t : State) (h : step s = .next t) :
    (s.pending = [] ∧ t = s) ∨
    ∃ e rest, s.pending = e :: rest ∧ deliver e { s with pending := rest } = .next t := by
  cases hp : s.pending with
  | nil => exact .inl ⟨rfl, by simpa [step_nil s hp, eq_comm] using h⟩
  | cons e rest => exact .inr ⟨e, rest, rfl, by rw [← step_cons s e rest hp]; exact h⟩

/-- What a delivery can do when it answers a next state: a read, a write, or reset (R60, R69, R220). -/
theorem deliver_cases (e : Event) (s t : State) (h : deliver e s = .next t) :
    (∃ idx, t = { s with returned := busRead idx s :: s.returned }) ∨
    (∃ idx w, busWrite idx w s = .next t) ∨ (e = .reset ∧ t = resetRegisters s) := by
  cases e with
  | read idx => exact .inl ⟨idx, by simpa [deliver, portRead, eq_comm] using h⟩
  | write idx w => exact .inr (.inl ⟨idx, w, h⟩)
  | reset => exact .inr (.inr ⟨rfl, by simpa [deliver, eq_comm] using h⟩)
  | platformRead addr width =>
    simp only [deliver, platformRead] at h
    split at h
    · next idx _ => exact .inl ⟨idx, by simpa [portRead, eq_comm] using h⟩
    · cases h
  | platformWrite addr bytes =>
    simp only [deliver, platformWrite] at h
    split at h
    · next idx _ => exact .inr (.inl ⟨idx, _, h⟩)
    · cases h

end Sys2Proof.Machine
end

