-- ==== Sys2Proof/Tests/Slice0.lean ====
section
/-! SUPPORT. Tests on single steps, with the results of 95_test_vectors, and one witness for every statement of
Certificates/Slice0/Obligations.lean that has a hypothesis: concrete data that meet its hypotheses together, at boundary
values of each clause. -/

namespace Sys2Proof.Tests

open Sys2Proof.Machine

/-! ### Helpers -/

/-- The reset state with A and B written, and Y = 7 left by an earlier command (V-MAU-ERR). -/
def onAB (a b : Word) : State := { State.reset with a := a, b := b, y := 7 }

/-- The reset state with D[1..10] written. -/
def onWord (v : Digits) : State := { State.reset with d := v }

/-- The reset state with events to deliver. -/
def onEvents (l : List Event) : State := { State.reset with pending := l }

/-- The next state of an outcome. -/
def nextOf : Host.Outcome State Fault Refusal → Option State
  | .next s => some s
  | .fault f => nomatch f
  | .refused _ => none

/-- Y and STATUS after a command. -/
def yStatus (o : Host.Outcome State Fault Refusal) : Option (Residue × Word) := (nextOf o).map fun s => (s.y, s.status)

/-- C and STATUS after a command. -/
def cStatus (o : Host.Outcome State Fault Refusal) : Option (Digits × Word) := (nextOf o).map fun s => (s.c, s.status)

/-- S0..S3 and STATUS after a command. -/
def sStatus (o : Host.Outcome State Fault Refusal) : Option (List Residue × Word) :=
  (nextOf o).map fun s => ([s.s0, s.s1, s.s2, s.s3], s.status)

/-- What the last read returned. -/
def readBack (o : Host.Outcome State Fault Refusal) : Option Word := (nextOf o).map lastReturned

/-! ### Words that are no command (V-ENC) -/

theorem test_wf_refuses_reserved_bit : ¬ legalCommand 0x00000012 ∧ ¬ legalCommand 0x80000002 := by decide
theorem test_wf_refuses_opcode_zero : ¬ legalCommand 0x00000000 := by decide
theorem test_wf_refuses_opcode_twelve : ¬ legalCommand 0x0000000C ∧ ¬ legalCommand 0x0000000F := by decide
theorem test_wf_accepts_first_and_last : legalCommand 0x00000001 ∧ legalCommand 0x0000000B := by decide

/-! ### Every constructor's word, bit by bit: RSV [31:4] = 0 and OPC [3:0] (R80, R82) -/

theorem test_word_new : decode 0b0000000000000000000000000000_0001#32 = .ok .new := by decide
theorem test_word_add : decode 0b0000000000000000000000000000_0010#32 = .ok .add := by decide
theorem test_word_sub : decode 0b0000000000000000000000000000_0011#32 = .ok .sub := by decide
theorem test_word_mul : decode 0b0000000000000000000000000000_0100#32 = .ok .mul := by decide
theorem test_word_div : decode 0b0000000000000000000000000000_0101#32 = .ok .div := by decide
theorem test_word_pow : decode 0b0000000000000000000000000000_0110#32 = .ok .pow := by decide
theorem test_word_sqrt : decode 0b0000000000000000000000000000_0111#32 = .ok .sqrt := by decide
theorem test_word_eq : decode 0b0000000000000000000000000000_1000#32 = .ok .eq := by decide
theorem test_word_check : decode 0b0000000000000000000000000000_1001#32 = .ok .check := by decide
theorem test_word_synd : decode 0b0000000000000000000000000000_1010#32 = .ok .synd := by decide
theorem test_word_decode : decode 0b0000000000000000000000000000_1011#32 = .ok .decode := by decide
theorem test_word_reserved_opcode : decode 0x0000000F = .error .reservedOpcode := by decide
theorem test_word_reserved_bit : decode 0x00000010 = .error .reservedBits := by decide

theorem test_table_word : decodeTableWord 32 0x0000000B = some .decode ∧ decodeTableWord 32 0x0000001B = none := by
  decide

theorem test_fetch_word : nextOf (step ((onAB 3 4).withFetchWord 32 2)) = nextOf (exec .add (onAB 3 4)) := by decide

/-! ### The commands (V-MAU, V-CHK, V-SYN, V-DEC, L1) -/

theorem test_new_minimum : yStatus (exec .new (onAB 0x80000000 0)) = some (9, 0x00010000) := by decide
theorem test_new_negative : yStatus (exec .new (onAB 0xFFFFFFF5 0)) = some (0, 0x00010000) := by decide
theorem test_add_wraps : yStatus (exec .add (onAB 10 10)) = some (9, 0x00020000) := by decide
theorem test_add_noncanon_b : yStatus (exec .add (onAB 3 11)) = some (0, 0x00022005) := by decide
theorem test_sub_wraps : yStatus (exec .sub (onAB 3 7)) = some (7, 0x00030000) := by decide
theorem test_sub_reads_unsigned : yStatus (exec .sub (onAB 0xFFFFFFFF 0)) = some (0, 0x00031005) := by decide
theorem test_mul_wraps : yStatus (exec .mul (onAB 9 6)) = some (10, 0x00040000) := by decide
theorem test_mul_reports_a_first : yStatus (exec .mul (onAB 11 12)) = some (0, 0x00041005) := by decide
theorem test_div_quotient : yStatus (exec .div (onAB 3 7)) = some (2, 0x00050000) := by decide
theorem test_div_zero_by_zero : yStatus (exec .div (onAB 0 0)) = some (0, 0x00050001) := by decide
theorem test_pow_large : yStatus (exec .pow (onAB 5 0x80000000)) = some (4, 0x00060000) := by decide
theorem test_pow_noncanon_before_exp : yStatus (exec .pow (onAB 11 0)) = some (0, 0x00061005) := by decide
theorem test_sqrt_smaller : yStatus (exec .sqrt (onAB 3 0)) = some (5, 0x00070000) := by decide
theorem test_sqrt_no_root : yStatus (exec .sqrt (onAB 2 0)) = some (0, 0x00070002) := by decide
theorem test_eq_equal : yStatus (exec .eq (onAB 10 10)) = some (1, 0x00080000) := by decide
theorem test_eq_unequal : yStatus (exec .eq (onAB 0 10)) = some (0, 0x00080000) := by decide
theorem test_check_payload :
    cStatus (exec .check (onWord ⟨2, 7, 1, 8, 2, 8, 0, 0, 0, 0⟩)) =
      some (⟨2, 7, 1, 8, 2, 8, 7, 8, 1, 0⟩, 0x00090000) := by decide
theorem test_check_unusable :
    cStatus (exec .check (onWord ⟨0, 0, 0, 0, 0, 9, 0, 0, 0, 0⟩)) = some (Digits.zero, 0x00098004) := by decide
theorem test_synd_word :
    sStatus (exec .synd (onWord ⟨3, 9, 4, 5, 1, 9, 5, 8, 7, 6⟩)) = some ([2, 4, 8, 5], 0x000A0000) := by decide
theorem test_synd_invalid :
    sStatus (exec .synd (onWord ⟨0, 0, 0, 0, 0, 0, 10, 0, 0, 0⟩)) = some ([0, 0, 0, 0], 0x000A7003) := by decide
theorem test_decode_double :
    cStatus (exec .decode (onWord ⟨3, 7, 1, 5, 1, 9, 5, 0, 7, 6⟩)) =
      some (⟨3, 7, 4, 5, 1, 9, 5, 8, 7, 6⟩, 0x000B0030) := by decide
theorem test_decode_single_to_ten :
    cStatus (exec .decode (onWord ⟨0, 0, 0, 0, 0, 9, 8, 0, 8, 9⟩)) =
      some (⟨0, 0, 0, 0, 0, 9, 8, 10, 8, 9⟩, 0x000B0020) := by decide

/-! ### The port (V-BUS, V-ENC, R68, R69) -/

theorem test_read_id : readBack (step (onEvents [.read 0x00])) = some 0x01060A0B := by decide
theorem test_read_top : readBack (step (onEvents [.read 0xFF])) = some 0x00000000 := by decide
theorem test_write_digit : (nextOf (step (onEvents [.write 0x20 0x000000F7]))).map (·.d.d1) = some 7 := by decide
theorem test_illegal_word : yStatus (executeCommand 0x80000002 (onAB 0 0)) = some (7, 0x00020007) := by decide

theorem test_platform_byte_refused :
    step (onEvents [.platformRead 0 1]) = .refused (.platformAccess 0 1) := by rfl

theorem test_adapter_orders :
    adapterWord .little [0xEF, 0xBE, 0xAD, 0xDE] = 0xDEADBEEF ∧ adapterWord .big [0xDE, 0xAD, 0xBE, 0xEF] = 0xDEADBEEF := by
  decide

/-! ### The hosts (R86, R226) -/

theorem test_host_branch_taken :
    hostStep [.label 1, .halt] ⟨[.ifGoto (.err 0) .ne (.const 0) 1], [(0, 0x00070002)], []⟩ State.reset =
      .running ⟨[.halt], [(0, 0x00070002)], []⟩ State.reset := by rfl

theorem test_exclusive_refuses :
    runExclusive 0 [(0, .read 0x05), (1, .write 0x03 5)] State.reset = .refused (.interleaved 1) := by rfl

/-! ### Witnesses: the port -/

theorem witness_DecodeAndEncodeAgree : decode 0x0000000B = .ok .decode := by decide

theorem witness_IllegalWordChangesStatusAlone :
    (onEvents [.write 0x01 0x10]).pending = .write 0x01 0x10 :: [] ∧ IllegalWord 0x10 ∧ IllegalWord 0x80000002 ∧
      IllegalWord 0x0 ∧ IllegalWord 0xC ∧ IllegalWord 0xF ∧ ¬ IllegalWord 0x1 ∧ ¬ IllegalWord 0xB := by decide

theorem witness_StepRunsTheDecodedCommand :
    (onEvents [.write 0x01 0xB]).pending = .write 0x01 0xB :: [] ∧ decode 0xB = .ok .decode ∧ decode 0x1 = .ok .new := by
  decide

theorem witness_ReadReturnsTheRegisterMap :
    (onEvents [.read 0x29]).pending = .read 0x29 :: [] ∧
      (0x20#8).toNat = 0x20 + (0 : Fin 10).val ∧ (0x29#8).toNat = 0x20 + (9 : Fin 10).val ∧
      (0x30#8).toNat = 0x30 + (0 : Fin 10).val ∧ (0x39#8).toNat = 0x30 + (9 : Fin 10).val ∧ ReservedIndex 0xFF := by
  decide

/-- The first and last index of every reserved range of R66, and the registers beside them. -/
theorem test_reserved_edges :
    (∀ idx ∈ [0x0F#8, 0x14#8, 0x1F#8, 0x2A#8, 0x2F#8, 0x3A#8, 0xFF#8], ReservedIndex idx) ∧
      ∀ idx ∈ [0x00#8, 0x0E#8, 0x10#8, 0x13#8, 0x20#8, 0x29#8, 0x30#8, 0x39#8], ¬ ReservedIndex idx := by decide

theorem witness_WriteStoresOrRuns :
    (onEvents [.write 0x29 0xF7]).pending = .write 0x29 0xF7 :: [] ∧
      (0x20#8).toNat = 0x20 + (0 : Fin 10).val ∧ (0x29#8).toNat = 0x20 + (9 : Fin 10).val ∧ (8 : Fin 10) ≠ 9 ∧
      (0x2A#8 ≠ 0x01 ∧ 0x2A#8 ≠ 0x03 ∧ 0x2A#8 ≠ 0x04 ∧ ¬ (0x20 ≤ (0x2A#8).toNat ∧ (0x2A#8).toNat ≤ 0x29)) ∧
      (0x1F#8 ≠ 0x01 ∧ 0x1F#8 ≠ 0x03 ∧ 0x1F#8 ≠ 0x04 ∧ ¬ (0x20 ≤ (0x1F#8).toNat ∧ (0x1F#8).toNat ≤ 0x29)) := by decide

theorem witness_ReadOnlyRegistersIgnoreWrites :
    (onEvents [.write 0x05 3]).pending = .write 0x05 3 :: [] ∧ ReadOnlyIndex 0x05 := by decide

/-- The edges of the ranges of read-only registers (R65), and the writable registers beside them. -/
theorem test_read_only_edges :
    (∀ idx ∈ [0x00#8, 0x02#8, 0x05#8, 0x0E#8, 0x10#8, 0x13#8, 0x30#8, 0x39#8], ReadOnlyIndex idx) ∧
      ∀ idx ∈ [0x01#8, 0x03#8, 0x04#8, 0x20#8, 0x29#8], ¬ ReadOnlyIndex idx := by decide

theorem witness_ReservedIndicesReadZeroIgnoreWrites :
    ReservedIndex 0xFF ∧ (onEvents [.read 0xFF]).pending = .read 0xFF :: [] ∧
      (onEvents [.write 0xFF 1]).pending = .write 0xFF 1 :: [] := by decide

theorem witness_ReadAfterWriteReturnsTheValue :
    (onEvents [.write 0x29 0xF7, .read 0x29]).pending = .write 0x29 0xF7 :: .read 0x29 :: [] ∧
      (0x20 ≤ (0x29#8).toNat ∧ (0x29#8).toNat ≤ 0x29) ∧ (0x20 ≤ (0x20#8).toNat ∧ (0x20#8).toNat ≤ 0x29) := by decide

theorem witness_OnlyWritesAndResetChangeRegisters :
    (onEvents [.write 0x05 3]).pending = .write 0x05 3 :: [] ∧ disturbs (.write 0x05 3) = false ∧
      step (onEvents [.write 0x05 3]) = .next State.reset ∧ disturbs (.read 0x03) = false :=
  ⟨rfl, by decide, rfl, rfl⟩

theorem witness_EveryTransactionCompletes :
    (onEvents [.reset]).pending = .reset :: [] ∧ (onEvents [.read 0xFF]).pending = .read 0xFF :: [] ∧
      (onEvents [.write 0x01 0xFFFFFFFF]).pending = .write 0x01 0xFFFFFFFF :: [] := by decide

theorem witness_BlockWaitsWithoutEvents : State.reset.pending = [] := by decide

theorem witness_PlatformAccessIsAlignedWordOrRefused :
    (onEvents [.platformRead (Config.baseAddr + 4 * (0xFF#8).toNat) 4]).pending =
        .platformRead (Config.baseAddr + 4 * (0xFF#8).toNat) 4 :: [] ∧
      (onEvents [.platformWrite (Config.baseAddr + 4 * (0x03#8).toNat) (adapterBytes Config.busEndian 5)]).pending =
        .platformWrite (Config.baseAddr + 4 * (0x03#8).toNat) (adapterBytes Config.busEndian 5) :: [] ∧
      (∀ k : RegIndex, Config.baseAddr + 1024 ≠ Config.baseAddr + 4 * k.toNat) ∧
      (∀ k : RegIndex, Config.baseAddr + 1 ≠ Config.baseAddr + 4 * k.toNat) ∧ (2 : Nat) ≠ 4 ∧
      ([0xFF, 0xFF] : List Byte).length ≠ 4 :=
  ⟨rfl, rfl, fun k => by have := k.isLt; omega, fun k => by omega, by decide, by decide⟩

theorem witness_UndisturbedSequenceRunsAsIfAlone :
    runExclusive 0 [(1, .read 0x03), (0, .write 0x03 5)] State.reset =
      .next { State.reset with a := 5, returned := [0] } := by rfl

theorem witness_ResetSetsEveryRegister :
    (onEvents [.reset]).pending = .reset :: [] ∧ Reg.cmd ≠ .id ∧ Reg.c 9 ≠ .id := by decide

/-! ### Witnesses: STATUS and the invariant -/

/-- A state that meets the invariant with a reported position: the end of DECODE on V-DEC-3, with CHECK to come. -/
def afterSingle : State :=
  { State.reset with
    status := 0x000B0020, d := ⟨4, 3, 0, 0, 4, 1, 2, 7, 8, 5⟩, c := ⟨4, 3, 0, 0, 4, 1, 2, 6, 8, 5⟩
    s0 := 1, s1 := 8, s2 := 9, s3 := 6, pos1 := 8, mag1 := 1, pending := [.write 0x01 0x9] }

theorem witness_StepKeepsTheInvariant : afterSingle.Inv ∧ (nextOf (step afterSingle)).isSome = true :=
  ⟨⟨by decide, by decide, by decide, by decide, by decide⟩, by decide⟩

/-- NONCANON at 15, INVALID_DIGIT at 0 and 11, CHECK's INVALID_DIGIT at 7 and its UNUSABLE at 6 (R28). -/
theorem test_status_refuses_places :
    ¬ StatusLegal 0x0002F005 ∧ ¬ StatusLegal 0x000A0003 ∧ ¬ StatusLegal 0x000BB003 ∧ ¬ StatusLegal 0x00097003 ∧
      ¬ StatusLegal 0x00096004 := by
  refine ⟨?_, ?_, ?_, ?_, ?_⟩ <;> decide

/-- DIV_ZERO of SUB (R25), DECODE without an error or an outcome, and an outcome of SYND (R26). -/
theorem test_status_refuses_codes :
    ¬ StatusLegal 0x00030001 ∧ ¬ StatusLegal 0x000B0000 ∧ ¬ StatusLegal 0x000A0010 := by
  refine ⟨?_, ?_, ?_⟩ <;> decide

theorem witness_EveryCommandWritesLegalStatus :
    (nextOf (executeCommand 0xB { State.reset with status := 0xFFFFFFFF })).isSome = true := by decide

theorem witness_LastopHoldsTheOpcodeField :
    (onEvents [.write 0x01 0xFFFFFFFF]).pending = .write 0x01 0xFFFFFFFF :: [] := by decide

theorem witness_GhostFlagRecordsErrors :
    (onEvents [.write 0x01 0x5]).pending = .write 0x01 0x5 :: [] ∧
      ((nextOf (step (onEvents [.write 0x01 0x5]))).map (·.erred)) = some true ∧
      ((nextOf (step { State.reset with erred := true })).map (·.erred)) = some true := by decide

/-! ### Witnesses: the modular arithmetic unit -/

/-- Operands at the edge of each clause of ADD, SUB, MUL and EQ. -/
theorem witness_residue_operands :
    ((onAB 10 10).a.toNat < 11 ∧ (onAB 10 10).b.toNat < 11) ∧ 11 ≤ (onAB 11 11).a.toNat ∧
      ((onAB 10 11).a.toNat < 11 ∧ 11 ≤ (onAB 10 11).b.toNat) := by decide

theorem witness_AddGivesResidueOrNoncanon : (onAB 10 0).a.toNat < 11 ∧ (onAB 10 0).b.toNat < 11 := by decide
theorem witness_SubGivesResidueOrNoncanon : (onAB 0 10).a.toNat < 11 ∧ (onAB 0 10).b.toNat < 11 := by decide
theorem witness_MulGivesResidueOrNoncanon : (onAB 10 10).a.toNat < 11 ∧ (onAB 10 10).b.toNat < 11 := by decide
theorem witness_EqComparesResiduesOrNoncanon : (onAB 4 4).a.toNat < 11 ∧ (onAB 4 4).b.toNat < 11 := by decide

theorem witness_DivGivesTheQuotientOrError :
    ((onAB 10 1).a.toNat < 11 ∧ (onAB 10 1).b.toNat < 11 ∧ (onAB 10 1).b ≠ 0) ∧
      ((onAB 10 0).a.toNat < 11 ∧ (onAB 10 0).b = 0) ∧ 11 ≤ (onAB 11 0).a.toNat ∧
      ((onAB 10 11).a.toNat < 11 ∧ 11 ≤ (onAB 10 11).b.toNat) ∧
      (8 < 11 ∧ 8 * (onAB 2 3).b.toNat % 11 = (onAB 2 3).a.toNat) := by decide

theorem witness_PowGivesThePowerOrError :
    ((onAB 10 0xFFFFFFFF).a.toNat < 11 ∧ (onAB 10 0xFFFFFFFF).b ≠ 0) ∧
      ((onAB 10 0).a.toNat < 11 ∧ (onAB 10 0).b = 0) ∧ 11 ≤ (onAB 11 0).a.toNat := by decide

theorem witness_SqrtGivesTheSmallestRootOrError :
    ((onAB 9 0).a.toNat < 11 ∧ (onAB 9 0).a.toNat ∉ [2, 6, 7, 8, 10]) ∧
      (onAB 10 0).a.toNat ∈ [2, 6, 7, 8, 10] ∧ 11 ≤ (onAB 11 0).a.toNat := by decide

theorem witness_ResiduesFormAField :
    (Canonical 10 ∧ Canonical 0 ∧ (10 : Residue) ≠ 0 ∧ ¬ Canonical 11) ∧ rsqrt 9 = some 3 := by decide

/-! ### Witnesses: the syndrome accumulator -/

theorem witness_CheckWritesTheCodewordOrError :
    let good : Digits := ⟨5, 5, 5, 5, 5, 5, 10, 0, 0, 0⟩
    let bad : Digits := ⟨9, 9, 9, 9, 9, 10, 0, 0, 0, 0⟩
    let ten : Digits := ⟨0, 0, 0, 0, 2, 2, 0, 0, 0, 0⟩
    ((∀ j : Fin 10, j < 6 → Decimal (good.get j)) ∧ ∀ k : Fin 4, checkValue good k ≠ 10) ∧
      ((5 : Fin 10) < 6 ∧ FirstBadDigit bad 5) ∧
      ((∀ j : Fin 10, j < 6 → Decimal (ten.get j)) ∧ checkValue ten 3 = 10 ∧
        ∀ j : Fin 4, j < 3 → checkValue ten j ≠ 10) := by decide

theorem witness_SyndWritesTheSyndromeOrError :
    (⟨9, 9, 9, 9, 9, 9, 9, 9, 9, 9⟩ : Digits).AllDecimal ∧ FirstBadDigit ⟨0, 0, 12, 0, 0, 15, 0, 0, 0, 0⟩ 2 ∧
      FirstBadDigit ⟨9, 9, 9, 9, 9, 9, 9, 9, 9, 10⟩ 9 := by decide

theorem witness_CheckedWordsAreCodewords :
    (nextOf (exec .check (onWord ⟨5, 5, 5, 5, 5, 5, 0, 0, 0, 0⟩))).map (fun t => errField t.status) = some 0 := by decide

theorem witness_SyndromeIsLinearInEachDigit :
    (onWord ⟨9, 9, 9, 9, 9, 9, 9, 9, 9, 9⟩).d.AllDecimal ∧ Decimal 0 ∧
      (nextOf (exec .synd (onWord ⟨9, 9, 9, 9, 9, 9, 9, 9, 9, 9⟩))).isSome = true ∧
      (nextOf (exec .synd (onWord ((⟨9, 9, 9, 9, 9, 9, 9, 9, 9, 9⟩ : Digits).set 9 0)))).isSome = true := by decide

/-! ### Witnesses: DECODE (V-DEC, L1) -/

theorem witness_DecodeChecksDigitsAndLoadsTheSyndrome :
    FirstBadDigit ⟨0, 0, 12, 0, 0, 15, 0, 0, 0, 0⟩ 2 ∧ FirstBadDigit ⟨3, 9, 4, 5, 1, 9, 5, 8, 7, 11⟩ 9 ∧
      (⟨9, 9, 9, 9, 9, 9, 9, 9, 9, 9⟩ : Digits).AllDecimal := by decide

theorem witness_ZeroSyndromeEndsNoError :
    let v : Digits := ⟨4, 4, 6, 3, 6, 1, 8, 0, 1, 0⟩
    v.AllDecimal ∧ SyndromeZero v := by decide

theorem witness_DecodeWritesTheCoefficients :
    let v : Digits := ⟨7, 5, 2, 9, 1, 7, 0, 3, 4, 2⟩
    v.AllDecimal ∧ ¬ SyndromeZero v := by decide

theorem witness_SingleBranchDivisionError :
    let v : Digits := ⟨3, 2, 1, 4, 5, 5, 8, 3, 5, 8⟩
    v.AllDecimal ∧ SingleErrorBranch v ∧ syn v 0 = 0 := by decide

theorem witness_SingleBranchPositionZero :
    let v : Digits := ⟨9, 3, 1, 5, 3, 2, 9, 4, 4, 9⟩
    v.AllDecimal ∧ SingleErrorBranch v ∧ syn v 0 ≠ 0 ∧ syn v 1 = 0 := by decide

/-- Positions 1 and 10, and a corrected digit of 10 (V-DEC-11). -/
theorem witness_SingleBranchCorrectsOneDigit :
    let v : Digits := ⟨8, 8, 7, 4, 8, 5, 3, 3, 6, 1⟩
    let w : Digits := ⟨5, 8, 4, 3, 0, 3, 9, 5, 5, 7⟩
    let x : Digits := ⟨0, 0, 0, 0, 0, 9, 8, 0, 8, 9⟩
    (v.AllDecimal ∧ SingleErrorBranch v ∧ syn v 0 ≠ 0 ∧ ((0 : Fin 10).val + 1 : Int) * syn v 0 % 11 = syn v 1) ∧
      (w.AllDecimal ∧ SingleErrorBranch w ∧ syn w 0 ≠ 0 ∧ ((9 : Fin 10).val + 1 : Int) * syn w 0 % 11 = syn w 1) ∧
      (x.AllDecimal ∧ SingleErrorBranch x ∧ syn x 0 ≠ 0 ∧ ((7 : Fin 10).val + 1 : Int) * syn x 0 % 11 = syn x 1) := by
  decide

theorem witness_DoubleBranchTakesTheRoot :
    let v : Digits := ⟨5, 2, 6, 0, 1, 8, 1, 5, 9, 0⟩
    let w : Digits := ⟨1, 3, 9, 6, 2, 4, 5, 9, 5, 7⟩
    (v.AllDecimal ∧ DoubleErrorBranch v ∧ discOf v ∈ [2, 6, 7, 8, 10]) ∧
      (w.AllDecimal ∧ DoubleErrorBranch w ∧ discOf w ∉ [2, 6, 7, 8, 10]) := by decide

theorem witness_DoubleBranchDivisionByZeroP :
    let v : Digits := ⟨3, 3, 8, 7, 5, 0, 0, 4, 7, 4⟩
    v.AllDecimal ∧ DoubleErrorBranch v ∧ SmallerRoot v 3 ∧ coefP v = 0 := by decide

/-- pos1 = 0 (V-DEC-9), pos2 = 0, and both, where the positions are equal too. -/
theorem witness_DoubleBranchPositionZero :
    let v : Digits := ⟨0, 3, 0, 8, 2, 4, 6, 2, 8, 1⟩
    let w : Digits := ⟨1, 2, 2, 2, 8, 3, 4, 5, 9, 8⟩
    let x : Digits := ⟨5, 1, 7, 8, 1, 2, 8, 6, 5, 7⟩
    (v.AllDecimal ∧ DoubleErrorBranch v ∧ SmallerRoot v 1 ∧ RootPositions v 1 0 10) ∧
      (w.AllDecimal ∧ DoubleErrorBranch w ∧ SmallerRoot w 5 ∧ RootPositions w 5 4 0) ∧
      (x.AllDecimal ∧ DoubleErrorBranch x ∧ SmallerRoot x 0 ∧ RootPositions x 0 0 0) := by decide

theorem witness_DoubleBranchEqualPositions :
    let v : Digits := ⟨1, 3, 9, 6, 2, 4, 5, 9, 5, 7⟩
    v.AllDecimal ∧ DoubleErrorBranch v ∧ SmallerRoot v 0 ∧ RootPositions v 0 8 8 ∧ (8 : Nat) ≠ 0 := by decide

/-- Both corrected digits 10 (V-DEC-12 has the first alone). -/
theorem witness_DoubleBranchCorrectedToTen :
    let v : Digits := ⟨2, 0, 3, 4, 1, 7, 6, 8, 4, 8⟩
    let w : Digits := ⟨6, 0, 3, 1, 3, 7, 2, 1, 5, 9⟩
    (v.AllDecimal ∧ DoubleErrorBranch v ∧ SmallerRoot v 1 ∧
        RootPositions v 1 ((3 : Fin 10).val + 1) ((8 : Fin 10).val + 1) ∧ (3 : Fin 10) ≠ 8 ∧
        MagnitudesAt v ((3 : Fin 10).val + 1 : Nat) ((8 : Fin 10).val + 1 : Nat) 5 5 ∧ 9 < correctedDigit v 3 5) ∧
      (w.AllDecimal ∧ DoubleErrorBranch w ∧ SmallerRoot w 3 ∧
        RootPositions w 3 ((3 : Fin 10).val + 1) ((7 : Fin 10).val + 1) ∧ (3 : Fin 10) ≠ 7 ∧
        MagnitudesAt w ((3 : Fin 10).val + 1 : Nat) ((7 : Fin 10).val + 1 : Nat) 2 2 ∧ 9 < correctedDigit w 3 2) := by
  decide

/-- Positions 10 and 1, and 8 and 3 (L1-4). -/
theorem witness_DoubleBranchCorrectsTwoDigits :
    let v : Digits := ⟨8, 0, 3, 1, 7, 7, 1, 2, 4, 8⟩
    let w : Digits := ⟨3, 7, 1, 5, 1, 9, 5, 0, 7, 6⟩
    (v.AllDecimal ∧ DoubleErrorBranch v ∧ SmallerRoot v 1 ∧
        RootPositions v 1 ((9 : Fin 10).val + 1) ((0 : Fin 10).val + 1) ∧ (9 : Fin 10) ≠ 0 ∧
        MagnitudesAt v ((9 : Fin 10).val + 1 : Nat) ((0 : Fin 10).val + 1 : Nat) 1 7 ∧
        correctedDigit v 9 1 ≤ 9 ∧ correctedDigit v 0 7 ≤ 9) ∧
      (w.AllDecimal ∧ DoubleErrorBranch w ∧ SmallerRoot w 3 ∧
        RootPositions w 3 ((7 : Fin 10).val + 1) ((2 : Fin 10).val + 1) ∧ (7 : Fin 10) ≠ 2 ∧
        MagnitudesAt w ((7 : Fin 10).val + 1 : Nat) ((2 : Fin 10).val + 1 : Nat) 3 8 ∧
        correctedDigit w 7 3 ≤ 9 ∧ correctedDigit w 2 8 ≤ 9) := by decide

theorem witness_UncorrectableLeavesTheWord :
    (nextOf (exec .decode (onWord ⟨1, 1, 1, 5, 1, 9, 5, 8, 7, 6⟩))).map (fun t => outcomeField t.status) =
        some DecodeEnd.uncorrectable.code ∧
      (nextOf (exec .decode (onWord ⟨3, 2, 1, 4, 5, 5, 8, 3, 5, 8⟩))).map (fun t => outcomeField t.status) =
        some DecodeEnd.uncorrectable.code ∧
      DoubleErrorBranch ⟨1, 1, 1, 5, 1, 9, 5, 8, 7, 6⟩ ∧ SingleErrorBranch ⟨3, 2, 1, 4, 5, 5, 8, 3, 5, 8⟩ := by decide

theorem witness_OneAlteredDigitDecodes :
    let v : Digits := ⟨3, 7, 4, 5, 1, 9, 5, 8, 7, 6⟩
    IsCodeword v ∧ Decimal 9 ∧ 9 ≠ v.get 1 ∧ v.set 1 9 = ⟨3, 9, 4, 5, 1, 9, 5, 8, 7, 6⟩ := by decide

theorem witness_TwoAlteredDigitsDecode :
    let v : Digits := ⟨3, 7, 4, 5, 1, 9, 5, 8, 7, 6⟩
    IsCodeword v ∧ (2 : Fin 10) ≠ 7 ∧ Decimal 1 ∧ Decimal 0 ∧ 1 ≠ v.get 2 ∧ 0 ≠ v.get 7 ∧
      (v.set 2 1).set 7 0 = ⟨3, 7, 1, 5, 1, 9, 5, 0, 7, 6⟩ := by decide

/-- A corrected word that decodes, and one that holds a 10 (V-DEC-11). -/
theorem witness_RedecodingACorrectedWord :
    (nextOf (exec .decode (onWord ⟨3, 9, 4, 5, 1, 9, 5, 8, 7, 6⟩))).map
        (fun t => (outcomeField t.status, decide t.c.AllDecimal, (nextOf (exec .decode { t with d := t.c })).isSome)) =
        some (DecodeEnd.single.code, true, true) ∧
      (nextOf (exec .decode (onWord ⟨0, 0, 0, 0, 0, 9, 8, 0, 8, 9⟩))).map
        (fun t => (outcomeField t.status, decide t.c.AllDecimal, (nextOf (exec .decode { t with d := t.c })).isSome)) =
        some (DecodeEnd.single.code, false, true) := by decide

/-- One digit altered and four, and two words that DECODE ends NO_ERROR (L1-2, V-DEC-15). -/
theorem witness_CodewordsDifferInFivePositions :
    let v : Digits := ⟨3, 7, 4, 5, 1, 9, 5, 8, 7, 6⟩
    (IsCodeword v ∧ (onWord (v.set 9 0)).d.AllDecimal ∧ distance v (onWord (v.set 9 0)).d = 1) ∧
      ((onWord ⟨1, 1, 1, 1, 1, 9, 5, 8, 7, 6⟩).d.AllDecimal ∧
        distance v (onWord ⟨1, 1, 1, 1, 1, 9, 5, 8, 7, 6⟩).d = 4) ∧
      (cStatus (exec .decode (onWord v))).map (·.2) = some 0x000B0010 ∧
      (cStatus (exec .decode (onWord ⟨5, 3, 4, 0, 2, 0, 0, 6, 2, 0⟩))).map (·.2) = some 0x000B0010 ∧
      (onWord v).d ≠ (onWord ⟨5, 3, 4, 0, 2, 0, 0, 6, 2, 0⟩).d := by decide

theorem witness_TwoOrThreeAlteredDigitsNeverSingle :
    let v : Digits := ⟨3, 7, 4, 5, 1, 9, 5, 8, 7, 6⟩
    let w : Digits := ⟨1, 1, 1, 5, 1, 9, 5, 8, 7, 6⟩
    IsCodeword v ∧ w.AllDecimal ∧ 2 ≤ distance v w ∧ distance v w ≤ 3 ∧
      (nextOf (exec .decode (onWord w))).isSome = true := by decide

/-! ### Witnesses: all commands -/

theorem witness_CommandsStayInTheirWriteSets :
    Instr.eq ∈ [Instr.new, .add, .sub, .mul, .div, .pow, .sqrt, .eq] ∧
      (yStatus (exec .eq (onAB 0 11))).map (fun x => errField x.2) = some Err.noncanon.code ∧
      (cStatus (exec .check (onWord ⟨0, 0, 0, 0, 0, 9, 0, 0, 0, 0⟩))).map (fun x => errField x.2) =
        some Err.unusable.code ∧
      (sStatus (exec .synd (onWord ⟨0, 0, 0, 0, 0, 0, 10, 0, 0, 0⟩))).map (fun x => errField x.2) =
        some Err.invalidDigit.code ∧
      (cStatus (exec .decode (onWord ⟨0, 0, 0, 0, 0, 0, 0, 0, 0, 10⟩))).map (fun x => errField x.2) =
        some Err.invalidDigit.code ∧
      IllegalWord 0xC ∧ (nextOf (executeCommand 0xC (onAB 0 0))).isSome = true := by decide

/-- Two states that agree on the operands and differ elsewhere. -/
theorem witness_CommandsReadOnlyTheirOperands :
    let s := { onAB 3 4 with d := ⟨1, 2, 3, 4, 5, 6, 7, 8, 9, 0⟩ }
    let s' := { onAB 3 4 with d := ⟨1, 2, 3, 4, 5, 6, 10, 0, 0, 0⟩, y := 0, status := 0xFFFFFFFF }
    Instr.sqrt ∈ [Instr.new, .sqrt] ∧ Instr.eq ∈ [Instr.add, .sub, .mul, .div, .pow, .eq] ∧ s.a = s'.a ∧ s.b = s'.b ∧
      (∀ j : Fin 10, j < 6 → s.d.get j = s'.d.get j) ∧ s.d ≠ s'.d ∧ (onAB 1 2).d = (onAB 3 4).d ∧
      (nextOf (exec .eq s)).isSome = true ∧ (nextOf (exec .eq s')).isSome = true ∧
      (nextOf (exec .check s)).isSome = true ∧ (nextOf (exec .check s')).isSome = true := by decide

theorem witness_RepeatingACommandChangesNothing :
    (nextOf (executeCommand 0x5 (onAB 0 0))).isSome = true ∧ (nextOf (executeCommand 0xB (onAB 0 0))).isSome = true := by
  decide

end Sys2Proof.Tests
end

section
/-! The state of 10_state: what a write of CMD runs (R23), what it leaves in LASTOP (R29), and the reset state (R43). -/

namespace Sys2Proof.Machine

/-! ### A write of CMD -/

/-- A step at a write of CMD executes the written word on the state without that write (R23). -/
theorem step_of_cmdWrite (s : State) (rest : List Event) (w : Word) (h : s.pending = .write 0x01 w :: rest) :
    step s = executeCommand w { s with pending := rest } :=
  (step_cons s _ rest h).trans (busWrite_cmd w _)

/-- A word that decodes runs its command (R81). -/
theorem executeCommand_of_decode (w : Word) (i : Instr) (s : State) (h : decode w = .ok i) :
    executeCommand w s = exec i s := by
  rw [executeCommand, h]

/-- Settles O4: a step at a CMD write is `executeCommand`, which runs the decoded command; CMD reads 0. -/
theorem stepRunsTheDecodedCommand : Obligations.StepRunsTheDecodedCommand := by
  refine ⟨fun s rest w i hp hw => ?_, fun s => busRead_index .cmd s⟩
  rw [step_of_cmdWrite s rest w hp, executeCommand_of_decode w i _ hw]

/-! ### LASTOP -/

/-- The opcode map gives a command only at its own opcode (R82). -/
theorem opcode_of_decodeOpc (op : BitVec 4) (i : Instr) (h : decodeOpc op = some i) : i.opcode = op := by
  revert op
  cases i <;> decide

/-- A word that decodes holds its command's opcode in OPC (R80, R82). -/
theorem opcode_of_decode (w : Word) (i : Instr) (h : decode w = .ok i) : i.opcode = opcField w := by
  rw [decode] at h
  split at h
  · split at h
    · next j hj =>
      cases h
      exact opcode_of_decodeOpc _ _ hj
    · cases h
  · cases h

/-- Every CMD write, legal or not, ends through `finish` with the word's field OPC (R29, R81). -/
theorem executeCommand_endsCommand (w : Word) (s t : State) (h : executeCommand w s = .next t) :
    EndsCommand (opcField w) s t := by
  rcases executeCommand_cases w s t h with ⟨i, hw, hi⟩ | ⟨_, -, rfl⟩
  · exact opcode_of_decode w i hw ▸ exec_endsCommand i s t hi
  · exact raiseError_endsCommand _ _ _ _

/-- LASTOP holds the opcode with which a command ended (R29). -/
theorem EndsCommand.lastop {op : BitVec 4} {s t : State} (h : EndsCommand op s t) : lastopField t.status = op := by
  obtain ⟨err, outcome, reason, errpos, hstatus, -⟩ := h.status
  rw [hstatus, lastopField_statusWord]

/-- Settles O20: the CMD write completes, and it ends, legal or not, with the word's bits [3:0] in LASTOP. -/
theorem lastopHoldsTheOpcodeField : Obligations.LastopHoldsTheOpcodeField := by
  intro s rest w hp
  obtain ⟨t, ht⟩ := executeCommand_completes w { s with pending := rest }
  exact ⟨t, (step_of_cmdWrite s rest w hp).trans ht, (executeCommand_endsCommand w _ t ht).lastop⟩

/-! ### The reset state -/

/-- In the reset state every register but ID reads 0 (R43). -/
theorem readReg_reset (reg : Reg) (h : reg ≠ .id) : readReg reg State.reset = 0 := by
  cases reg with
  | id => exact absurd rfl h
  | d i => exact congrArg (BitVec.setWidth 32) (Digits.get_zero i)
  | c i => exact congrArg (BitVec.setWidth 32) (Digits.get_zero i)
  | _ => rfl

/-- DECODE of a codeword ends NO_ERROR with the registers of step 1 (R148, R162). -/
theorem execDecode_codeword (s : State) (h : IsCodeword s.d) :
    execDecode s = .next (decodeFinish .noError .noReason s.decodeBase) := by
  obtain ⟨hdec, hsyn⟩ := h
  have hzero : SyndromeZero s.d :=
    ⟨congrArg Nat.cast (hsyn 0), congrArg Nat.cast (hsyn 1), congrArg Nat.cast (hsyn 2), congrArg Nat.cast (hsyn 3)⟩
  rw [execDecode_eq s hdec, if_pos hzero]

/-- The all-zero word is a codeword (R43, R148). -/
theorem isCodeword_zero : IsCodeword Digits.zero := by decide

/-- Settles O16: the registers are read off the reset state, DECODE meets the codeword 0, and every command completes on
every state. -/
theorem resetStateIsZeroAndLegal : Obligations.ResetStateIsZeroAndLegal := by
  have hdecode : exec .decode State.reset = .next { State.reset with status := 0x000B0010 } :=
    (execDecode_codeword State.reset isCodeword_zero).trans (congrArg Host.Outcome.next (by decide))
  exact ⟨rfl, readReg_reset, hdecode, fun i => exec_completes i State.reset⟩

end Sys2Proof.Machine
end

section
/-! The transactions of 20_memory: what a read returns (R62), what a write stores or runs (R63), and the indices that
ignore writes (R65, R66). -/

namespace Sys2Proof.Machine

/-! ### Indices -/

/-- The indices at which a write has an effect: CMD, A, B and D[1..10] (R63). -/
abbrev WritableIndex (idx : RegIndex) : Prop :=
  idx = 0x01 ∨ idx = 0x03 ∨ idx = 0x04 ∨ (0x20 ≤ idx.toNat ∧ idx.toNat ≤ 0x29)

/-- D[i+1] stands at index 0x20 + i (R34). -/
theorem eq_index_d (idx : RegIndex) (i : Fin 10) (h : idx.toNat = 0x20 + i.val) : idx = (Reg.d i).index :=
  BitVec.eq_of_toNat_eq (by rw [h, Reg.index, BitVec.toNat_ofNat]; omega)

/-- C[i+1] stands at index 0x30 + i (R35). -/
theorem eq_index_c (idx : RegIndex) (i : Fin 10) (h : idx.toNat = 0x30 + i.val) : idx = (Reg.c i).index :=
  BitVec.eq_of_toNat_eq (by rw [h, Reg.index, BitVec.toNat_ofNat]; omega)

/-- No read-only register stands at a writable index (R65). -/
theorem not_writableIndex_of_readOnly (idx : RegIndex) (h : ReadOnlyIndex idx) : ¬ WritableIndex idx := by
  revert idx
  decide

/-- No reserved index is writable (R66). -/
theorem not_writableIndex_of_reserved (idx : RegIndex) (h : ReservedIndex idx) : ¬ WritableIndex idx := by
  revert idx
  decide

/-! ### Reads -/

/-- A reserved index reads 0 (R66). -/
theorem busRead_reserved (idx : RegIndex) (s : State) (h : ReservedIndex idx) : busRead idx s = 0 := by
  rw [busRead, (regAt_eq_none_iff idx).mpr h]

/-- What a read answers does not depend on the events still to be delivered. -/
theorem busRead_with_pending (idx : RegIndex) (s : State) (l : List Event) :
    busRead idx { s with pending := l } = busRead idx s := by
  rw [busRead, busRead]
  cases regAt idx with
  | none => rfl
  | some reg => exact readReg_with_pending reg s l

/-- A step at a read returns the word at its index and changes no register (R62). -/
theorem step_of_read (s : State) (rest : List Event) (idx : RegIndex) (h : s.pending = .read idx :: rest) :
    step s = .next { s with pending := rest, returned := busRead idx s :: s.returned } := by
  rw [step_cons s _ rest h, deliver, portRead, busRead_with_pending]

/-- A read of a 4-bit register answers its value, zero-extended (R62). -/
theorem toNat_busRead_of_nibble (idx : RegIndex) (reg : Reg) (x : Nibble) (s : State) (hidx : idx = reg.index)
    (hreg : readReg reg s = x.setWidth 32) : (busRead idx s).toNat = x.toNat := by
  rw [hidx, busRead_index, hreg, BitVec.toNat_setWidth_of_le (by decide)]

/-! ### Writes -/

/-- A step at a write of a register other than CMD stores the word there (R63). -/
theorem step_of_storeWrite (s : State) (rest : List Event) (reg : Reg) (w : Word) (hreg : reg ≠ .cmd)
    (h : s.pending = .write reg.index w :: rest) : step s = .next (storeReg reg w { s with pending := rest }) := by
  rw [step_cons s _ rest h, deliver, busWrite, regAt_index]
  cases reg with
  | cmd => exact absurd rfl hreg
  | _ => rfl

/-- A register at an index that is not writable keeps its value when it is written (R65). -/
theorem storeReg_of_not_writableIndex (reg : Reg) (w : Word) (s : State) (h : ¬ WritableIndex reg.index) :
    storeReg reg w s = s := by
  cases reg with
  | a | b => exact absurd (by decide) h
  | d i => exact absurd (by revert i; decide) h
  | _ => rfl

/-- A write at an index that is not writable has no effect (R63, R65, R66). -/
theorem busWrite_of_not_writableIndex (idx : RegIndex) (w : Word) (s : State) (h : ¬ WritableIndex idx) :
    busWrite idx w s = .next s := by
  rcases busWrite_cases idx w s with ⟨hcmd, -⟩ | ⟨reg, rfl, -, hstore⟩ | ⟨-, hnone⟩
  · exact absurd (.inl hcmd) h
  · rw [hstore, storeReg_of_not_writableIndex reg w s h]
  · exact hnone

/-- A step at a write of an index that is not writable takes the event and changes nothing else (R63). -/
theorem step_of_ignoredWrite (s : State) (rest : List Event) (idx : RegIndex) (w : Word)
    (h : s.pending = .write idx w :: rest) (hidx : ¬ WritableIndex idx) : step s = .next { s with pending := rest } :=
  (step_cons s _ rest h).trans (busWrite_of_not_writableIndex idx w _ hidx)

/-- A digit register keeps bits [3:0] of the word written to it (R34, R63). -/
theorem toNat_get_storeReg_d (i : Fin 10) (w : Word) (s : State) :
    ((storeReg (.d i) w s).d.get i).toNat = w.toNat % 16 := by
  rw [storeReg, Digits.get_set_self, BitVec.toNat_setWidth]

/-! ### The statements -/

/-- Settles O5: the step returns `busRead`, which is `readReg` at a register's index and 0 at a reserved one. -/
theorem readReturnsTheRegisterMap : Obligations.ReadReturnsTheRegisterMap := by
  intro s rest idx hp
  have hword (reg : Reg) (h : idx = reg.index) : busRead idx s = readReg reg s := h ▸ busRead_index reg s
  have hnibble (reg : Reg) (x : Nibble) (hx : readReg reg s = x.setWidth 32) (h : idx = reg.index) :
      (busRead idx s).toNat = x.toNat := toNat_busRead_of_nibble idx reg x s h hx
  exact ⟨busRead idx s, step_of_read s rest idx hp,
    hword .id, hword .cmd, hword .status, hword .a, hword .b, hnibble .y _ rfl,
    hnibble .s0 _ rfl, hnibble .s1 _ rfl, hnibble .s2 _ rfl, hnibble .s3 _ rfl,
    hnibble .p _ rfl, hnibble .q _ rfl, hnibble .r _ rfl, hnibble .disc _ rfl, hnibble .root _ rfl,
    hnibble .pos1 _ rfl, hnibble .pos2 _ rfl, hnibble .mag1 _ rfl, hnibble .mag2 _ rfl,
    fun i h => hnibble (.d i) _ rfl (eq_index_d idx i h), fun i h => hnibble (.c i) _ rfl (eq_index_c idx i h),
    busRead_reserved idx s⟩

/-- Settles O6: a write runs at CMD, stores at A, B and D[i], and is ignored at every index that is not writable. -/
theorem writeStoresOrRuns : Obligations.WriteStoresOrRuns := by
  intro s rest idx w hp
  refine ⟨?cmd, ?a, ?b, ?digit, ?elsewhere⟩
  case cmd =>
    rintro rfl
    exact step_of_cmdWrite s rest w hp
  case a =>
    rintro rfl
    exact step_of_storeWrite s rest .a w (by decide) hp
  case b =>
    rintro rfl
    exact step_of_storeWrite s rest .b w (by decide) hp
  case digit =>
    intro i hi
    obtain rfl := eq_index_d idx i hi
    exact ⟨_, step_of_storeWrite s rest (.d i) w Reg.noConfusion hp, rfl, toNat_get_storeReg_d i w _,
      fun j hj => Digits.get_set_of_ne s.d i j _ hj⟩
  case elsewhere =>
    intro hcmd ha hb hd
    refine step_of_ignoredWrite s rest idx w hp ?_
    rintro (h | h | h | h)
    exacts [hcmd h, ha h, hb h, hd h]

/-- Settles O7: a read-only index is not writable. -/
theorem readOnlyRegistersIgnoreWrites : Obligations.ReadOnlyRegistersIgnoreWrites := fun s rest idx w hp hidx =>
  step_of_ignoredWrite s rest idx w hp (not_writableIndex_of_readOnly idx hidx)

/-- Settles O8: no register stands at a reserved index, so it reads 0, and it is not writable. -/
theorem reservedIndicesReadZeroIgnoreWrites : Obligations.ReservedIndicesReadZeroIgnoreWrites := by
  intro s rest idx hidx
  refine ⟨fun hp => ?_, fun w hp => step_of_ignoredWrite s rest idx w hp (not_writableIndex_of_reserved idx hidx)⟩
  rw [step_of_read s rest idx hp, busRead_reserved idx s hidx]

end Sys2Proof.Machine
end

section
/-! The command words of 30_encoding: the words that decode are the encoded commands (R82), the others are the illegal
words (R83), and an illegal word changes STATUS alone. -/

namespace Sys2Proof.Machine

/-! ### The words that decode -/

/-- The reserved opcodes are those with no row in the opcode map (R82, R83). -/
theorem decodeOpc_eq_none_iff (op : BitVec 4) : decodeOpc op = none ↔ op = 0x0 ∨ 0xC ≤ op.toNat := by
  revert op
  decide

/-- A word decodes when RSV is 0 and its opcode stands in the map (R81, R83). -/
theorem decode_eq_ok_iff (w : Word) (i : Instr) :
    decode w = .ok i ↔ rsvIsZero w ∧ decodeOpc (opcField w) = some i := by
  rw [decode]
  by_cases hrsv : rsvIsZero w
  · rw [if_pos hrsv, and_iff_right hrsv]
    cases decodeOpc (opcField w) <;> simp
  · rw [if_neg hrsv]
    simp [hrsv]

/-- The illegal words are those that decode to no command (R83). -/
theorem illegalWord_iff (w : Word) : IllegalWord w ↔ ∀ i, decode w ≠ .ok i := by
  have hop : (∀ i, decodeOpc (opcField w) ≠ some i) ↔ opcField w = 0x0 ∨ 0xC ≤ (opcField w).toNat :=
    Option.eq_none_iff_forall_ne_some.symm.trans (decodeOpc_eq_none_iff _)
  calc IllegalWord w
    _ ↔ (rsvIsZero w → opcField w = 0x0 ∨ 0xC ≤ (opcField w).toNat) := Decidable.imp_iff_not_or.symm
    _ ↔ ∀ i, decode w ≠ .ok i := by simp only [← hop, ne_eq, decode_eq_ok_iff, not_and, imp_forall_iff]

/-- A word whose field RSV is 0 is its field OPC, zero-extended (R80). -/
theorem eq_setWidth_opcField (w : Word) (h : rsvIsZero w) : w = (opcField w).setWidth 32 := by
  apply BitVec.eq_of_toNat_eq
  have hlt := w.isLt
  have hrsv : (w.extractLsb' 4 28).toNat = 0 := congrArg BitVec.toNat h
  rw [BitVec.extractLsb'_toNat, Nat.shiftRight_eq_div_pow] at hrsv
  rw [opcField, BitVec.toNat_setWidth, BitVec.extractLsb'_toNat, Nat.shiftRight_zero]
  omega

/-- A word that decodes is its command's word (R82). -/
theorem eq_encode_of_decode (w : Word) (i : Instr) (h : decode w = .ok i) : w = encode i := by
  rw [encode, opcode_of_decode w i h]
  exact eq_setWidth_opcField w ((decode_eq_ok_iff w i).mp h).1

/-! ### The illegal end -/

/-- The number of an error's STATUS word: its fields do not overlap (R24). -/
theorem errorStatus_toNat (lastop errpos err : BitVec 4) :
    (errorStatus lastop errpos.toNat err.toNat).toNat = 65536 * lastop.toNat + 4096 * errpos.toNat + err.toNat := by
  have hl := lastop.isLt
  have hp := errpos.isLt
  have he := err.isLt
  calc (errorStatus lastop errpos.toNat err.toNat).toNat
    _ = lastop.toNat <<< 16 ||| errpos.toNat * 4096 ||| err.toNat := by
      simp (disch := omega) only [errorStatus, BitVec.toNat_or, BitVec.toNat_shiftLeft, BitVec.toNat_setWidth,
        BitVec.toNat_ofNat, Nat.mod_eq_of_lt]
    _ = (lastop.toNat * 16 + errpos.toNat) <<< 12 ||| err.toNat := by
      rw [← Nat.shiftLeft_add_eq_or_of_lt (by omega)]
      congr 1
      omega
    _ = 65536 * lastop.toNat + 4096 * errpos.toNat + err.toNat := by
      rw [← Nat.shiftLeft_add_eq_or_of_lt (by omega)]
      omega

/-- A command that ends with an error writes STATUS with its three fields and neither outcome nor reason (R24). -/
theorem statusWord_eq_errorStatus (err : Err) (errpos lastop : BitVec 4) :
    statusWord err .notDecoded .noReason errpos lastop = errorStatus lastop errpos.toNat err.code.toNat := by
  have houtcome : DecodeEnd.notDecoded.code.toNat = 0 := rfl
  have hreason : Reason.noReason.code.toNat = 0 := rfl
  apply BitVec.eq_of_toNat_eq
  rw [statusWord_toNat, errorStatus_toNat, houtcome, hreason]
  omega

/-- A word that decodes to no command ends with ERR = ILLEGAL (R81). -/
theorem executeCommand_of_illegalWord (w : Word) (s : State) (h : IllegalWord w) :
    executeCommand w s = .next { s with status := errorStatus (opcField w) 0 7, erred := true } := by
  rw [executeCommand]
  split
  · next i hi => exact absurd hi ((illegalWord_iff w).mp h i)
  · rw [illegalCommand, raiseError, finish, statusWord_eq_errorStatus]
    simp [clearWriteSet, Err.code]

/-- Settles O3: an illegal word decodes to no command, so its CMD write takes the illegal end; every other word decodes,
and is its command's word. -/
theorem illegalWordChangesStatusAlone : Obligations.IllegalWordChangesStatusAlone := by
  refine ⟨fun s rest w hp hw => ?_, fun w hw => ?_⟩
  · rw [step_of_cmdWrite s rest w hp, executeCommand_of_illegalWord w _ hw, opcField]
  · obtain ⟨i, hi⟩ := by simpa using (illegalWord_iff w).not.mp hw
    exact ⟨i, eq_encode_of_decode w i hi⟩

end Sys2Proof.Machine
end

section
/-! The modular arithmetic unit of 40_modular_arithmetic: how its commands end (section 2), and what each of the eight
writes to Y and STATUS (R110 to R117). -/

namespace Sys2Proof.Machine

/-! ### The ends of a command -/

/-- A result goes to Y, with ERR = OK (R15). -/
theorem mauEnd_ok (i : Instr) (v : Residue) (s : State) :
    mauEnd i (.ok v) s =
      .next { s with y := v, status := statusWord .ok .notDecoded .noReason 0 i.opcode } := by
  rw [mauEnd, finishOk, finish]
  simp

/-- An error zeroes Y (R203) and sets the ghost flag (R215). -/
theorem mauEnd_error (i : Instr) (e : Raise) (s : State) (h : e.code ≠ .ok) :
    mauEnd i (.error e) s = .next { s with
      y := 0, status := statusWord e.code .notDecoded .noReason e.errpos i.opcode, erred := true } := by
  rw [mauEnd, raiseError, finish, clearWriteSet]
  simp [h]

/-! ### The operand checks -/

section
variable (i : Instr) (s : State)

/-- A canonical A is read as its own value (R109). -/
theorem mauEnd_operandA (f : Residue → Except Raise Residue) (ha : s.a.toNat < 11) :
    mauEnd i (operandA s >>= f) s = mauEnd i (f (s.a.setWidth 4)) s := by
  rw [operandA, (canon_ok s.a 1 ha).1]
  rfl

/-- A non-canonical A is NONCANON at place 1, whatever the command does with A (R109). -/
theorem mauEnd_operandA_noncanon (f : Residue → Except Raise Residue) (ha : 11 ≤ s.a.toNat) :
    mauEnd i (operandA s >>= f) s = .next { s with
      y := 0, status := statusWord .noncanon .notDecoded .noReason 1 i.opcode, erred := true } := by
  rw [operandA, canon_error s.a 1 ha]
  exact mauEnd_error i ⟨.noncanon, 1⟩ s (by decide)

/-- Canonical operands A and B are read as their own values (R109). -/
theorem mauEnd_operands (f : Residue → Residue → Except Raise Residue) (ha : s.a.toNat < 11) (hb : s.b.toNat < 11) :
    mauEnd i (do let a ← operandA s; let b ← operandB s; f a b) s =
      mauEnd i (f (s.a.setWidth 4) (s.b.setWidth 4)) s := by
  rw [mauEnd_operandA i s _ ha, operandB, (canon_ok s.b 2 hb).1]
  rfl

/-- Beside a canonical A, a non-canonical B is NONCANON at place 2 (R109). -/
theorem mauEnd_operandB_noncanon (f : Residue → Residue → Except Raise Residue) (ha : s.a.toNat < 11)
    (hb : 11 ≤ s.b.toNat) :
    mauEnd i (do let a ← operandA s; let b ← operandB s; f a b) s = .next { s with
      y := 0, status := statusWord .noncanon .notDecoded .noReason 2 i.opcode, erred := true } := by
  rw [mauEnd_operandA i s _ ha, operandB, canon_error s.b 2 hb]
  exact mauEnd_error i ⟨.noncanon, 2⟩ s (by decide)

/-- The three ends of a command that writes `g` of its operands and raises nothing of its own (ADD, SUB, MUL and EQ). -/
theorem mauEnd_binary (g : Residue → Residue → Residue) (v : Residue)
    (hv : s.a.toNat < 11 → s.b.toNat < 11 → g (s.a.setWidth 4) (s.b.setWidth 4) = v) :
    let t := mauEnd i (do let a ← operandA s; let b ← operandB s; .ok (g a b)) s
    (s.a.toNat < 11 → s.b.toNat < 11 →
      t = .next { s with y := v, status := statusWord .ok .notDecoded .noReason 0 i.opcode }) ∧
    (11 ≤ s.a.toNat → t = .next { s with
      y := 0, status := statusWord .noncanon .notDecoded .noReason 1 i.opcode, erred := true }) ∧
    (s.a.toNat < 11 → 11 ≤ s.b.toNat → t = .next { s with
      y := 0, status := statusWord .noncanon .notDecoded .noReason 2 i.opcode, erred := true }) := by
  refine ⟨fun ha hb => ?_, mauEnd_operandA_noncanon i s _, mauEnd_operandB_noncanon i s fun a b => .ok (g a b)⟩
  rw [← hv ha hb, mauEnd_operands i s _ ha hb, mauEnd_ok]

end

/-- A canonical operand's residue has the operand's value (R109). -/
theorem toNat_setWidth_of_canonical (v : Word) (h : v.toNat < 11) : (v.setWidth 4).toNat = v.toNat :=
  (canon_ok v 0 h).2

/-- The residue of a canonical operand is 0 exactly when the operand is. -/
theorem setWidth_eq_zero_iff_of_canonical (v : Word) (h : v.toNat < 11) : v.setWidth 4 = (0 : Residue) ↔ v = 0 := by
  rw [← BitVec.toNat_inj, ← BitVec.toNat_inj, toNat_setWidth_of_canonical v h]
  rfl

/-! ### The results as natural numbers -/

section
variable (a b : Residue)

/-- `radd` is addition modulo 11 (R101). -/
theorem radd_eq_ofNat : radd a b = BitVec.ofNat 4 ((a.toNat + b.toNat) % 11) := by
  rw [radd, ← mod11_natCast, Nat.cast_add]

/-- `rmul` is multiplication modulo 11 (R103). -/
theorem rmul_eq_ofNat : rmul a b = BitVec.ofNat 4 (a.toNat * b.toNat % 11) := by
  rw [rmul, ← mod11_natCast, Nat.cast_mul]

/-- The number of a product, without integers (R103). -/
theorem rmul_toNat_eq_mod : (rmul a b).toNat = a.toNat * b.toNat % 11 := by
  exact_mod_cast rmul_toNat a b

/-- The difference is the sum with 11 - b, which is no negative number (R102). -/
theorem rsub_eq_ofNat (hb : b.toNat ≤ 11) : rsub a b = BitVec.ofNat 4 ((a.toNat + (11 - b.toNat)) % 11) := by
  rw [rsub, ← mod11_natCast, mod11_eq_iff]
  omega

/-- `rpow32` is the power modulo 11 (R104). -/
theorem rpow32_eq_ofNat (n : Word) : rpow32 a n = BitVec.ofNat 4 (a.toNat ^ n.toNat % 11) := by
  rw [← rpow32_toNat, BitVec.ofNat_toNat, BitVec.setWidth_eq]

/-- Canonical operands have one quotient by a divisor that is not 0, and `rdiv` answers it (R105). -/
theorem rdiv_answers (ha : a.toNat ≤ 10) (hb : b.toNat ≤ 10) (h0 : b ≠ 0) :
    ∃ k : Nat, k < 11 ∧ k * b.toNat % 11 = a.toNat ∧
      (∀ j : Nat, j < 11 → j * b.toNat % 11 = a.toNat → j = k) ∧ rdiv a b = some (BitVec.ofNat 4 k) := by
  obtain ⟨q, hq⟩ := Option.ne_none_iff_exists'.mp ((rdiv_eq_none_iff a b ha hb).not.mpr h0)
  obtain ⟨-, hle, hmul⟩ := rdiv_some a b q hq
  refine ⟨q.toNat, by omega, by rw [← rmul_toNat_eq_mod, hmul], fun j hj hjb => ?_, by simpa using hq⟩
  have hdiv : rdiv a b = some (BitVec.ofNat 4 j) :=
    rdiv_of_congr a b j hb (by omega) h0 (by rw [mul_comm]; exact_mod_cast hjb)
  obtain rfl : q = BitVec.ofNat 4 j := Option.some.inj (hq.symm.trans hdiv)
  rw [BitVec.toNat_ofNat]
  omega

/-- Outside the table of R106, `rsqrt` answers the smallest root, which is at most 5. -/
theorem rsqrt_answers (ha : a.toNat ≤ 10) (hroot : a.toNat ∉ [2, 6, 7, 8, 10]) :
    ∃ x : Nat, x ≤ 5 ∧ x * x % 11 = a.toNat ∧ (∀ z : Nat, z < x → z * z % 11 ≠ a.toNat) ∧
      rsqrt a = some (BitVec.ofNat 4 x) := by
  obtain ⟨x, hx⟩ := Option.ne_none_iff_exists'.mp ((rsqrt_eq_none_iff a ha).not.mpr hroot)
  obtain ⟨hle, hmul, hmin⟩ := rsqrt_some a x hx
  refine ⟨x.toNat, hle, by rw [← rmul_toNat_eq_mod, hmul], fun z hz hza => ?_, by simpa using hx⟩
  have hzn : (BitVec.ofNat 4 z).toNat = z := by rw [BitVec.toNat_ofNat]; omega
  exact hmin (BitVec.ofNat 4 z) (by omega) (BitVec.eq_of_toNat_eq (by rw [rmul_toNat_eq_mod, hzn, hza]))

end

/-- On canonical operands `req` compares the operands themselves (R107). -/
theorem req_setWidth_of_canonical (v w : Word) (hv : v.toNat < 11) (hw : w.toNat < 11) :
    req (v.setWidth 4) (w.setWidth 4) = if v = w then 1 else 0 := by
  simp only [req, ← BitVec.toNat_inj, toNat_setWidth_of_canonical v hv, toNat_setWidth_of_canonical w hw]

/-! ### The commands -/

/-- Settles O23: NEW checks no operand and ends with `mod11` of the signed A in Y. -/
theorem newNormalisesSignedA : Obligations.NewNormalisesSignedA :=
  ⟨by decide, fun s => mauEnd_ok .new (mod11 s.a.toInt) s⟩

/-- Settles O24: `radd` of canonical operands is the residue of their sum. -/
theorem addGivesResidueOrNoncanon : Obligations.AddGivesResidueOrNoncanon :=
  ⟨by decide, fun s => mauEnd_binary .add s radd _ fun ha hb => by
    rw [radd_eq_ofNat, toNat_setWidth_of_canonical s.a ha, toNat_setWidth_of_canonical s.b hb]⟩

/-- Settles O25: `rsub` of canonical operands is the residue of A + (11 - B). -/
theorem subGivesResidueOrNoncanon : Obligations.SubGivesResidueOrNoncanon :=
  ⟨by decide, fun s => mauEnd_binary .sub s rsub _ fun ha hb => by
    have hb4 := toNat_setWidth_of_canonical s.b hb
    rw [rsub_eq_ofNat _ _ (by omega), toNat_setWidth_of_canonical s.a ha, hb4]⟩

/-- Settles O26: `rmul` of canonical operands is the residue of their product. -/
theorem mulGivesResidueOrNoncanon : Obligations.MulGivesResidueOrNoncanon :=
  ⟨by decide, fun s => mauEnd_binary .mul s rmul _ fun ha hb => by
    rw [rmul_eq_ofNat, toNat_setWidth_of_canonical s.a ha, toNat_setWidth_of_canonical s.b hb]⟩

/-- Settles O27: canonical operands end with the answer of `rdiv`, which is the one quotient, or FAIL by a B of 0. -/
theorem divGivesTheQuotientOrError : Obligations.DivGivesTheQuotientOrError := by
  refine ⟨by decide, fun s => ⟨?quotient, ?zero, mauEnd_operandA_noncanon .div s _,
    mauEnd_operandB_noncanon .div s fun a b => answerOr .divZero (rdiv a b)⟩⟩
  case quotient =>
    intro ha hb h0
    have ha4 := toNat_setWidth_of_canonical s.a ha
    have hb4 := toNat_setWidth_of_canonical s.b hb
    obtain ⟨k, hk, hmul, huniq, hdiv⟩ := rdiv_answers (s.a.setWidth 4) (s.b.setWidth 4) (by omega) (by omega)
      ((setWidth_eq_zero_iff_of_canonical s.b hb).not.mpr h0)
    rw [ha4, hb4] at hmul huniq
    refine ⟨k, hk, hmul, huniq, (mauEnd_operands .div s _ ha hb).trans ?_⟩
    rw [hdiv]
    exact mauEnd_ok .div _ s
  case zero =>
    intro ha h0
    have hb : s.b.toNat < 11 := by simp [h0]
    refine (mauEnd_operands .div s _ ha hb).trans ?_
    rw [(setWidth_eq_zero_iff_of_canonical s.b hb).mpr h0, rdiv_zero]
    exact mauEnd_error .div ⟨.divZero, 0⟩ s (by decide)

/-- Settles O28: behind a canonical A, an exponent of 0 is BAD_EXP and every other one ends with `rpow32` in Y. -/
theorem powGivesThePowerOrError : Obligations.PowGivesThePowerOrError := by
  refine ⟨by decide, fun s => ⟨fun ha h0 => ?power, fun ha h0 => ?zero, mauEnd_operandA_noncanon .pow s _⟩⟩
  case power =>
    refine (mauEnd_operandA .pow s _ ha).trans ?_
    rw [operandExponent, if_neg h0, ← toNat_setWidth_of_canonical s.a ha, ← rpow32_eq_ofNat]
    exact mauEnd_ok .pow _ s
  case zero =>
    refine (mauEnd_operandA .pow s _ ha).trans ?_
    rw [operandExponent, if_pos h0]
    exact mauEnd_error .pow ⟨.badExp, 0⟩ s (by decide)

/-- Settles O29: a canonical A ends with the answer of `rsqrt`, the smallest root, or FAIL at the table of R106. -/
theorem sqrtGivesTheSmallestRootOrError : Obligations.SqrtGivesTheSmallestRootOrError := by
  refine ⟨by decide, fun s => ⟨fun ha hroot => ?root, fun hroot => ?noRoot, mauEnd_operandA_noncanon .sqrt s _⟩⟩
  case root =>
    have ha4 := toNat_setWidth_of_canonical s.a ha
    obtain ⟨x, hx, hsq, hmin, hsqrt⟩ := rsqrt_answers (s.a.setWidth 4) (by omega) (ha4 ▸ hroot)
    rw [ha4] at hsq hmin
    refine ⟨x, hx, hsq, hmin, (mauEnd_operandA .sqrt s _ ha).trans ?_⟩
    rw [hsqrt]
    exact mauEnd_ok .sqrt _ s
  case noRoot =>
    have ha : s.a.toNat < 11 := (by decide : ∀ x ∈ [2, 6, 7, 8, 10], x < 11) _ hroot
    have ha4 := toNat_setWidth_of_canonical s.a ha
    refine (mauEnd_operandA .sqrt s _ ha).trans ?_
    rw [(rsqrt_eq_none_iff (s.a.setWidth 4) (by omega)).mpr (ha4 ▸ hroot)]
    exact mauEnd_error .sqrt ⟨.noRoot, 0⟩ s (by decide)

/-- Settles O30: `req` of canonical operands compares A and B themselves. -/
theorem eqComparesResiduesOrNoncanon : Obligations.EqComparesResiduesOrNoncanon :=
  ⟨by decide, fun s => mauEnd_binary .eq s req _ fun ha hb => req_setWidth_of_canonical s.a s.b ha hb⟩

end Sys2Proof.Machine
end

section
/-! The syndrome accumulator of 41_syndrome_accumulator: what CHECK writes to C and STATUS (R146), and SYND to S0..S3 and
STATUS (R147). -/

namespace Sys2Proof.Machine

/-! ### The ends of a command -/

/-- A command without an error writes STATUS and leaves the ghost flag (R15). -/
theorem finishOk_eq (op : BitVec 4) (s : State) :
    finishOk op s = { s with status := statusWord .ok .notDecoded .noReason 0 op } := by
  simp [finishOk, finish]

/-- An error at place `pos` zeroes the write set and writes ERR, ERRPOS and LASTOP (R203); the ghost flag is set (R215). -/
theorem raiseError_eq (ws : WriteSet) (op : BitVec 4) (code : Err) (pos : Nat) (s : State) (hcode : code ≠ .ok)
    (hpos : pos < 16) :
    raiseError ws op ⟨code, BitVec.ofNat 4 pos⟩ s =
      { clearWriteSet ws s with status := errorStatus op pos code.code.toNat, erred := true } := by
  have hplace : (BitVec.ofNat 4 pos).toNat = pos := by rw [BitVec.toNat_ofNat, Nat.mod_eq_of_lt hpos]
  rw [raiseError, finish, statusWord_eq_errorStatus, hplace]
  simp [hcode]

/-! ### The lanes as register values -/

section
variable (s : State) (k : Fin 4)

/-- A lane of W_SYN is the register value of its power sum (R140, R141). -/
theorem wsum_wSyn_eq_ofNat : wsum (wSyn k) (receivedWord s) = BitVec.ofNat 4 (syndromeOf k.val s.d) := by
  rw [← wsum_wSyn_toNat, BitVec.ofNat_toNat, BitVec.setWidth_eq]

/-- A lane of W_CHK is the register value of its check value (R140, R142). -/
theorem wsum_wChk_eq_ofNat : wsum (wChk k) (payload s) = BitVec.ofNat 4 (checkValue s.d k) := by
  rw [← wsum_wChk_toNat, BitVec.ofNat_toNat, BitVec.setWidth_eq]

/-- A check digit is decimal exactly when its check value is not 10. -/
theorem decimal_wsum_wChk_iff : Decimal (wsum (wChk k) (payload s)) ↔ checkValue s.d k ≠ 10 := by
  have hlt := checkValue_lt s.d k
  rw [Decimal, wsum_wChk_toNat]
  omega

/-- SYND loads the power sums of the received word (R147). -/
theorem loadSyndrome_eq : loadSyndrome s = { s with
    s0 := BitVec.ofNat 4 (syndromeOf 0 s.d), s1 := BitVec.ofNat 4 (syndromeOf 1 s.d)
    s2 := BitVec.ofNat 4 (syndromeOf 2 s.d), s3 := BitVec.ofNat 4 (syndromeOf 3 s.d) } := by
  simp only [loadSyndrome, wsum_wSyn_eq_ofNat]
  rfl

/-- The codeword is the received word with the check values at positions 7 to 10 (R146). -/
theorem codeword_eq : codeword s = { s.d with
    d7 := BitVec.ofNat 4 (checkValue s.d 0), d8 := BitVec.ofNat 4 (checkValue s.d 1)
    d9 := BitVec.ofNat 4 (checkValue s.d 2), d10 := BitVec.ofNat 4 (checkValue s.d 3) } := by
  simp only [codeword, wsum_wChk_eq_ofNat]

/-! ### The checks of CHECK -/

/-- Six decimal digits pass the digit check of CHECK, and nothing else does (R144). -/
theorem checkDigits_payload_iff (u : Unit) :
    checkDigits (payload s) = .ok u ↔ ∀ i : Fin 10, i < 6 → Decimal (s.d.get i) :=
  (checkDigits_eq_ok_iff _ u).trans (forall_mem_payload s _)

/-- Check value k stands at place k of the list that `checkUsable` scans (R146). -/
theorem checkValues_eq_ofFn (digits : List Nibble) :
    checkValues digits = List.ofFn fun k : Fin 4 => wsum (wChk k) digits := rfl

/-- A payload without a check value of 10 is usable (R146). -/
theorem checkUsable_checkValues_ok (h : ∀ k, checkValue s.d k ≠ 10) :
    checkUsable (checkValues (payload s)) = .ok () := by
  have hnone : firstTenOrMore 7 (checkValues (payload s)) = none := by
    rw [firstTenOrMore_eq_none_iff, checkValues_eq_ofFn, List.forall_mem_ofFn_iff]
    exact fun k => (decimal_wsum_wChk_iff s k).mpr (h k)
  rw [checkUsable, hnone]

/-- UNUSABLE is raised at the position of the first check value of 10 (R146). -/
theorem checkUsable_checkValues_error (hten : checkValue s.d k = 10) (hbefore : ∀ j < k, checkValue s.d j ≠ 10) :
    checkUsable (checkValues (payload s)) = .error ⟨.unusable, BitVec.ofNat 4 (7 + k.val)⟩ := by
  have hsome : firstTenOrMore 7 (checkValues (payload s)) = some (7 + k.val) := by
    rw [checkValues_eq_ofFn]
    refine firstTenOrMore_eq_some 7 _ k.val (by simp) ?_ fun j hj => ?_
    · rw [List.getElem_ofFn, wsum_wChk_toNat, hten]
    · rw [List.getElem_ofFn]
      exact (decimal_wsum_wChk_iff s _).mpr (hbefore ⟨j, by omega⟩ hj)
  rw [checkUsable, hsome]

end

/-! ### The commands -/

/-- Settles O32: the payload's check comes first, then the first check value of 10, then the codeword. -/
theorem checkWritesTheCodewordOrError : Obligations.CheckWritesTheCodewordOrError := by
  refine ⟨by decide, fun s => ⟨fun hdec husable => ?codeword, fun i hi hbad => ?badDigit,
    fun k hdec hten hbefore => ?unusable⟩⟩
  case codeword =>
    rw [exec, execCheck, (checkDigits_payload_iff s ()).mpr hdec, codeword_eq, finishOk_eq]
    simp only [bind, Except.bind, checkUsable_checkValues_ok s husable]
    rfl
  case badDigit =>
    rw [exec, execCheck, checkDigits_payload_error s i hi hbad]
    exact congrArg Host.Outcome.next (raiseError_eq .check 9 .invalidDigit (i.val + 1) s (by decide) (by omega))
  case unusable =>
    rw [exec, execCheck, (checkDigits_payload_iff s ()).mpr hdec]
    simp only [bind, Except.bind, checkUsable_checkValues_error s k hten hbefore]
    exact congrArg Host.Outcome.next (raiseError_eq .check 9 .unusable (7 + k.val) s (by decide) (by omega))

/-- Settles O33: ten decimal digits load their power sums, and the first other digit raises the error. -/
theorem syndWritesTheSyndromeOrError : Obligations.SyndWritesTheSyndromeOrError := by
  refine ⟨by decide, fun s => ⟨fun hdec => ?syndrome, fun i hbad => ?badDigit⟩⟩
  case syndrome =>
    rw [exec, execSynd, (checkDigits_receivedWord_iff s ()).mpr hdec, loadSyndrome_eq, finishOk_eq]
    rfl
  case badDigit =>
    rw [exec, execSynd, checkDigits_receivedWord_error s i hbad]
    exact congrArg Host.Outcome.next (raiseError_eq .synd 10 .invalidDigit (i.val + 1) s (by decide) (by omega))

end Sys2Proof.Machine
end

section
/-! The error locator solver of 42_error_locator_solver: what DECODE writes in each of its ends (R160 to R178). -/

namespace Sys2Proof.Machine

/-! ### Registers -/

/-- A number below 11 is its own register value. -/
theorem ofNat_toNat_of_le (n : Nat) (h : n ≤ 10) : (BitVec.ofNat 4 n).toNat = n := by
  rw [BitVec.toNat_ofNat]
  omega

theorem ne_zero_of_toNat_ne_zero (x : Residue) (h : (x.toNat : Int) ≠ 0) : x ≠ 0 := by
  rintro rfl
  exact h rfl

/-! ### The ends of DECODE -/

/-- A DECODE without an error writes STATUS and leaves the ghost flag (R15). -/
theorem decodeFinish_eq (o : DecodeEnd) (re : Reason) (s : State) :
    decodeFinish o re s = { s with status := statusWord .ok o re 0 Instr.decode.opcode } := by
  simp [decodeFinish, finish]

/-- An uncorrectable end writes STATUS alone (R177). -/
theorem uncorrectable_eq (re : Reason) (s : State) :
    uncorrectable re s = { s with status := statusWord .ok .uncorrectable re 0 Instr.decode.opcode } :=
  decodeFinish_eq .uncorrectable re s

/-- What steps 4 and 5b to 5g leave of the state they start from: all but STATUS where they end UNCORRECTABLE (R177),
and otherwise all but STATUS, C, the positions and the magnitudes (R169, R176). -/
inductive SolverEnd (s : State) : State → Prop
  | uncorrected (re : Reason) : SolverEnd s (uncorrectable re s)
  | corrected (o : DecodeEnd) (ho : o ≠ .uncorrectable) (c : Digits) (pos1 pos2 mag1 mag2 : Residue) :
    SolverEnd s (decodeFinish o .noReason
      { s with c := c, pos1 := pos1, pos2 := pos2, mag1 := mag1, mag2 := mag2 })

theorem singleBranch_solverEnd (s : State) : SolverEnd s (singleBranch s) := by
  obtain ⟨-, h⟩ | ⟨_, -, -, h⟩ | ⟨_, _, -, -, h⟩ := singleBranch_cases s
  · exact h ▸ .uncorrected _
  · exact h ▸ .uncorrected _
  · exact h ▸ .corrected .single (by decide) _ _ s.pos2 _ s.mag2

theorem locateTwo_solverEnd (root : Residue) (s : State) : SolverEnd s (locateTwo root s) := by
  obtain ⟨_, -, h⟩ | ⟨_, _, _, _, _, _, _, -, -, -, -, -, -, -, -, -, h⟩ := locateTwo_cases root s
  · exact h ▸ .uncorrected _
  · exact h ▸ .corrected .double (by decide) _ _ _ _ _

/-! ### The discriminant and its root -/

/-- The discriminants with a square root (R170). -/
theorem exists_smallerRoot_iff (v : Digits) : (∃ root, SmallerRoot v root) ↔ discOf v ∉ [2, 6, 7, 8, 10] := by
  constructor
  · rintro ⟨root, hle, hsq⟩
    rw [← hsq]
    interval_cases root <;> decide
  · have h0 := discOf_nonneg v
    have h11 := discOf_lt v
    intro hroot
    have hreg := discOf_reg_toNat v
    obtain ⟨x, hle, hsq, -, -⟩ := rsqrt_answers (BitVec.ofInt 4 (discOf v)) (by omega) (by
      simp only [List.mem_cons, List.not_mem_nil, or_false] at hroot ⊢
      omega)
    exact ⟨x, hle, by rw [pow_two, ← hreg, ← hsq]; norm_cast⟩

theorem root_reg_toNat (v : Digits) (root : Nat) (h : SmallerRoot v root) : (BitVec.ofNat 4 root).toNat = root :=
  ofNat_toNat_of_le root (by omega)

/-- Without a square root of the discriminant, the double-error branch ends at step 5a (R170). -/
theorem doubleBranch_noRoot (s : State) (h : discOf s.d ∈ [2, 6, 7, 8, 10]) :
    doubleBranch s.decodeLocated =
      uncorrectable .noValidRoots { s.decodeLocated with disc := BitVec.ofInt 4 (discOf s.d) } := by
  have hreg := discOf_reg_toNat s.d
  have hnone : rsqrt (BitVec.ofInt 4 (discOf s.d)) = none := by
    rw [rsqrt_eq_none_iff _ (by have := discOf_lt s.d; omega)]
    simp only [List.mem_cons, List.not_mem_nil, or_false] at h ⊢
    omega
  rw [doubleBranch, discriminant_eq]
  simp only [hnone]

/-! ### How DECODE of ten decimal digits ends -/

/-- The four ends of DECODE of ten decimal digits, by the branch of R164 and the root of step 5a (R162, R164, R170). -/
theorem decode_decimal_cases (s t : State) (hdec : s.d.AllDecimal) (h : exec .decode s = .next t) :
    (SyndromeZero s.d ∧ t = decodeFinish .noError .noReason s.decodeBase) ∨
    (SingleErrorBranch s.d ∧ SolverEnd s.decodeLocated t) ∨
    (DoubleErrorBranch s.d ∧ (∀ root, ¬ SmallerRoot s.d root) ∧
      t = uncorrectable .noValidRoots { s.decodeLocated with disc := BitVec.ofInt 4 (discOf s.d) }) ∨
    (∃ root, DoubleErrorBranch s.d ∧ SmallerRoot s.d root ∧ SolverEnd (s.decodeRooted root) t) := by
  have ht := (execDecode_eq s hdec).symm.trans h
  rw [Host.Outcome.next.injEq] at ht
  subst ht
  split
  · next hzero => exact .inl ⟨hzero, rfl⟩
  · next hzero =>
    split
    · next hcoef => exact .inr (.inl ⟨⟨hzero, hcoef⟩, singleBranch_solverEnd _⟩)
    · next hcoef =>
      by_cases hroot : ∃ root, SmallerRoot s.d root
      · obtain ⟨root, hroot⟩ := hroot
        rw [doubleBranch_root s root hroot]
        exact .inr (.inr (.inr ⟨root, ⟨hzero, hcoef⟩, hroot, locateTwo_solverEnd _ _⟩))
      · have hdisc := (exists_smallerRoot_iff s.d).not_left.mp hroot
        exact .inr (.inr (.inl ⟨⟨hzero, hcoef⟩, not_exists.mp hroot, doubleBranch_noRoot s hdisc⟩))

/-- S0..S3 hold a word's syndrome and P, Q, R its coefficients (R161, R163). -/
abbrev HoldsLocator (v : Digits) (t : State) : Prop :=
  (t.s0.toNat : Int) = syn v 0 ∧ (t.s1.toNat : Int) = syn v 1 ∧ (t.s2.toNat : Int) = syn v 2 ∧
  (t.s3.toNat : Int) = syn v 3 ∧
  (t.p.toNat : Int) = coefP v ∧ (t.q.toNat : Int) = coefQ v ∧ (t.r.toNat : Int) = coefR v

theorem decodeLocated_holdsLocator (s : State) : HoldsLocator s.d s.decodeLocated :=
  ⟨syn_reg_toNat _ 0, syn_reg_toNat _ 1, syn_reg_toNat _ 2, syn_reg_toNat _ 3, coefP_reg_toNat _, coefQ_reg_toNat _,
    coefR_reg_toNat _⟩

/-- The coefficients of a zero syndrome are 0, as step 1 has left them (R162). -/
theorem decodeBase_holdsLocator (s : State) (h : SyndromeZero s.d) : HoldsLocator s.d s.decodeBase := by
  obtain ⟨h0, h1, h2, h3⟩ := h
  refine ⟨syn_reg_toNat _ 0, syn_reg_toNat _ 1, syn_reg_toNat _ 2, syn_reg_toNat _ 3, ?_, ?_, ?_⟩ <;>
    simp [coefP, coefQ, coefR, h0, h1, h2, h3]

theorem SolverEnd.holdsLocator {v : Digits} {s t : State} (h : SolverEnd s t) (hs : HoldsLocator v s) :
    HoldsLocator v t := by
  cases h <;> exact hs

theorem SolverEnd.disc {s t : State} (h : SolverEnd s t) : t.disc = s.disc := by cases h <;> rfl
theorem SolverEnd.root {s t : State} (h : SolverEnd s t) : t.root = s.root := by cases h <;> rfl

/-- Every DECODE of ten decimal digits leaves the syndrome and the coefficients in their registers (R161, R163). -/
theorem decode_decimal_holdsLocator (s t : State) (hdec : s.d.AllDecimal) (h : exec .decode s = .next t) :
    HoldsLocator s.d t := by
  obtain ⟨hzero, rfl⟩ | ⟨-, hend⟩ | ⟨-, -, rfl⟩ | ⟨root, -, -, hend⟩ := decode_decimal_cases s t hdec h
  · exact decodeBase_holdsLocator s hzero
  · exact hend.holdsLocator (decodeLocated_holdsLocator s)
  · exact decodeLocated_holdsLocator s
  · exact hend.holdsLocator (decodeLocated_holdsLocator s)

/-! ### Steps 1 to 3 -/

/-- A register with the number of a syndrome's element is the one that SYND writes. -/
theorem eq_ofNat_of_syn (x : Residue) (v : Digits) (k : Nat) (h : (x.toNat : Int) = syn v k) :
    x = BitVec.ofNat 4 (syndromeOf k v) ∧ x.toNat = syndromeOf k v := by
  have hx : x.toNat = syndromeOf k v := Int.ofNat_inj.mp h
  exact ⟨by rw [← hx, BitVec.ofNat_toNat, BitVec.setWidth_eq], hx⟩

/-- Settles O36: the first bad digit raises the error, and DECODE of ten decimal digits leaves S0..S3 as SYND does. -/
theorem decodeChecksDigitsAndLoadsTheSyndrome : Obligations.DecodeChecksDigitsAndLoadsTheSyndrome := by
  refine ⟨fun s i hbad => ?badDigit, fun s hdec => ?syndrome⟩
  case badDigit =>
    rw [exec, execDecode, checkDigits_receivedWord_error s i hbad]
    exact congrArg Host.Outcome.next (raiseError_eq .decode 11 .invalidDigit (i.val + 1) s (by decide) (by omega))
  case syndrome =>
    obtain ⟨t, ht⟩ := exec_completes .decode s
    obtain ⟨h0, h1, h2, h3, -⟩ := decode_decimal_holdsLocator s t hdec ht
    obtain ⟨e0, n0⟩ := eq_ofNat_of_syn _ _ _ h0
    obtain ⟨e1, n1⟩ := eq_ofNat_of_syn _ _ _ h1
    obtain ⟨e2, n2⟩ := eq_ofNat_of_syn _ _ _ h2
    obtain ⟨e3, n3⟩ := eq_ofNat_of_syn _ _ _ h3
    have hsynd := (syndWritesTheSyndromeOrError.2 s).1 hdec
    exact ⟨t, _, ht, hsynd, e0, e1, e2, e3, n0, n1, n2, n3⟩

/-- Settles O37: the dispatch on a zero syndrome writes STATUS alone after step 1. -/
theorem zeroSyndromeEndsNoError : Obligations.ZeroSyndromeEndsNoError := by
  intro s hdec hzero
  rw [exec, execDecode_eq s hdec, if_pos hzero, decodeFinish_eq]
  rfl

/-- Settles O38: every DECODE of ten decimal digits leaves the coefficients in P, Q and R. -/
theorem decodeWritesTheCoefficients : Obligations.DecodeWritesTheCoefficients := by
  intro s hdec _
  obtain ⟨t, ht⟩ := exec_completes .decode s
  obtain ⟨-, -, -, -, hcoef⟩ := decode_decimal_holdsLocator s t hdec ht
  exact ⟨t, ht, hcoef⟩

/-! ### Step 4: the single-error branch -/

/-- The corrected digit of step 4d (R168). -/
theorem rsub_syn_reg (x : Residue) (v : Digits) (k : Nat) :
    rsub x (BitVec.ofInt 4 (syn v k)) = BitVec.ofInt 4 ((x.toNat - syn v k) % 11) := by
  rw [rsub, syn_reg_toNat, mod11_eq_ofInt]

/-- The quotient of step 4a (R165). -/
theorem rdiv_syn_reg (v : Digits) (k : Nat) (hk : k ≤ 10) (h0 : syn v 0 ≠ 0) (h : (k * syn v 0) % 11 = syn v 1) :
    rdiv (BitVec.ofInt 4 (syn v 1)) (BitVec.ofInt 4 (syn v 0)) = some (BitVec.ofNat 4 k) := by
  have hlt := syn_lt v 0
  have hreg := syn_reg_toNat v 0
  refine rdiv_of_congr _ _ k (by omega) hk (ne_zero_of_toNat_ne_zero _ (by rwa [hreg])) ?_
  rw [hreg, syn_reg_toNat, Int.mul_comm, h]

/-- Settles O41: the division of step 4a answers i + 1, which indexes the digit that step 4d replaces. -/
theorem singleBranchCorrectsOneDigit : Obligations.SingleBranchCorrectsOneDigit := by
  intro s i hdec hbranch h0 hpos
  have hdiv := rdiv_syn_reg s.d (i.val + 1) (by omega) h0 (by exact_mod_cast hpos)
  rw [exec, execDecode_single s hdec hbranch, singleBranch]
  simp only [decodeLocated_s0, decodeLocated_s1, decodeLocated_c, decodeLocated_d, hdiv, digitAt_ofNat, rsub_syn_reg,
    decodeFinish_eq]
  rfl

/-! ### Step 5a: the discriminant and its root -/

/-- Settles O42: a discriminant without a root ends at step 5a, and nothing after it changes DISC and ROOT. -/
theorem doubleBranchTakesTheRoot : Obligations.DoubleBranchTakesTheRoot := by
  refine fun s hdec hbranch => ⟨fun hdisc => ?noRoot, fun hdisc => ?root⟩
  case noRoot =>
    rw [exec, execDecode_double s hdec hbranch, doubleBranch_noRoot s hdisc, uncorrectable_eq]
    rfl
  case root =>
    obtain ⟨root, hroot⟩ := (exists_smallerRoot_iff s.d).mpr hdisc
    have hend := locateTwo_solverEnd (BitVec.ofNat 4 root) (s.decodeRooted root)
    refine ⟨root, _, hroot, (execDecode_double s hdec hbranch).trans
      (congrArg Host.Outcome.next (doubleBranch_root s root hroot)), ?_, ?_⟩
    · rw [hend.root, decodeRooted_root, root_reg_toNat s.d root hroot]
    · rw [hend.disc, decodeRooted_disc, discOf_reg_toNat]

/-! ### Steps 5b and 5c: the positions -/

/-- With a smaller root, the double-error branch is steps 5b to 5g (R170). -/
theorem decode_rooted (s : State) (root : Nat) (hdec : s.d.AllDecimal) (hbranch : DoubleErrorBranch s.d)
    (hroot : SmallerRoot s.d root) :
    exec .decode s = .next (locateTwo (BitVec.ofNat 4 root) (s.decodeRooted root)) := by
  rw [exec, execDecode_double s hdec hbranch, doubleBranch_root s root hroot]

/-- The divisor of step 5b (R171). -/
theorem rmul_two_coefP_toNat (v : Digits) : ((rmul 2 (BitVec.ofInt 4 (coefP v))).toNat : Int) = 2 * coefP v % 11 := by
  rw [rmul_toNat, coefP_reg_toNat]
  rfl

/-- A quotient by the divisor of step 5b, which is not 0 where P is not (R171). -/
theorem rdiv_two_coefP (v : Digits) (a : Residue) (k : Nat) (hP : coefP v ≠ 0) (hk : k ≤ 10)
    (h : (2 * coefP v * k) % 11 = a.toNat) :
    rdiv a (rmul 2 (BitVec.ofInt 4 (coefP v))) = some (BitVec.ofNat 4 k) := by
  have hden := rmul_two_coefP_toNat v
  refine rdiv_of_congr _ _ k (rmul_toNat_le _ _) hk (ne_zero_of_toNat_ne_zero _ ?_) ?_
  · have h0 := coefP_nonneg v
    have h11 := coefP_lt v
    omega
  · rw [hden, emod_mul_emod_eleven, h]

section
variable (s : State) (root x1 x2 : Nat) (hroot : SmallerRoot s.d root) (hpos : RootPositions s.d root x1 x2)
include hroot hpos

/-- Step 5b answers the first position (R171). -/
theorem rdiv_pos1 :
    rdiv (rsub (BitVec.ofNat 4 root) (s.decodeRooted root).q) (rmul 2 (s.decodeRooted root).p) =
      some (BitVec.ofNat 4 x1) := by
  obtain ⟨h1, -, hP, hx1, -⟩ := hpos
  refine rdiv_two_coefP s.d _ x1 hP h1 ?_
  rw [rsub_toNat, root_reg_toNat s.d root hroot, decodeRooted_q, coefQ_reg_toNat, hx1]

/-- Step 5b answers the second position (R171). -/
theorem rdiv_pos2 :
    rdiv (rsub (rneg (s.decodeRooted root).q) (BitVec.ofNat 4 root)) (rmul 2 (s.decodeRooted root).p) =
      some (BitVec.ofNat 4 x2) := by
  obtain ⟨-, h2, hP, -, hx2⟩ := hpos
  refine rdiv_two_coefP s.d _ x2 hP h2 ?_
  rw [rsub_toNat, rneg_toNat, root_reg_toNat s.d root hroot, decodeRooted_q, coefQ_reg_toNat, hx2, Int.emod_sub_emod]

/-- A position of 0 ends at step 5c (R172). -/
theorem locateTwo_positionZero (hzero : x1 = 0 ∨ x2 = 0) :
    locateTwo (BitVec.ofNat 4 root) (s.decodeRooted root) = uncorrectable .positionZero (s.decodeRooted root) := by
  have hnone : digitAt (BitVec.ofNat 4 0) = none := by decide
  rw [locateTwo]
  simp only [rdiv_pos1 s root x1 x2 hroot hpos, rdiv_pos2 s root x1 x2 hroot hpos]
  obtain rfl | rfl := hzero
  · simp only [hnone]
  · cases digitAt (BitVec.ofNat 4 x1) <;> simp only [hnone]

end

/-- Two positions of 1 to 10 go on to step 5d (R173). -/
theorem locateTwo_positions (s : State) (root : Nat) (i1 i2 : Fin 10) (hroot : SmallerRoot s.d root)
    (hpos : RootPositions s.d root (i1.val + 1) (i2.val + 1)) :
    locateTwo (BitVec.ofNat 4 root) (s.decodeRooted root) =
      correctTwo (BitVec.ofNat 4 (i1.val + 1)) (BitVec.ofNat 4 (i2.val + 1)) i1 i2 (s.decodeRooted root) := by
  rw [locateTwo]
  simp only [rdiv_pos1 s root _ _ hroot hpos, rdiv_pos2 s root _ _ hroot hpos, digitAt_ofNat]

/-- Settles O44: step 5c comes before step 5d compares the positions. -/
theorem doubleBranchPositionZero : Obligations.DoubleBranchPositionZero := by
  intro s root x1 x2 hdec hbranch hroot hpos hzero
  rw [decode_rooted s root hdec hbranch hroot, locateTwo_positionZero s root x1 x2 hroot hpos hzero, uncorrectable_eq]
  rfl

/-! ### Steps 5d to 5g: the magnitudes and the correction -/

/-- The corrected digits of step 5e (R174). -/
theorem mod11_correctedDigit (v : Digits) (i : Fin 10) (m : Nat) (hm : m ≤ 10) :
    mod11 ((v.get i).toNat + (11 - (BitVec.ofNat 4 m).toNat)) = BitVec.ofNat 4 (correctedDigit v i m) := by
  rw [ofNat_toNat_of_le m hm, correctedDigit, ← mod11_natCast]
  congr 1
  omega

/-- A corrected digit's register has its number. -/
theorem correctedDigit_reg_toNat (v : Digits) (i : Fin 10) (m : Nat) :
    (BitVec.ofNat 4 (correctedDigit v i m)).toNat = correctedDigit v i m :=
  ofNat_toNat_of_le _ (by rw [correctedDigit]; omega)

section
variable (s : State) (root m1 m2 : Nat) (i1 i2 : Fin 10)

/-- The registers of DECODE after step 5g (R176). -/
def State.decodeCorrected : State :=
  { s.decodeRooted root with
    c := (s.d.set i1 (BitVec.ofNat 4 (correctedDigit s.d i1 m1))).set i2 (BitVec.ofNat 4 (correctedDigit s.d i2 m2))
    pos1 := BitVec.ofNat 4 (i1.val + 1), pos2 := BitVec.ofNat 4 (i2.val + 1)
    mag1 := BitVec.ofNat 4 m1, mag2 := BitVec.ofNat 4 m2 }

variable (hne : i1 ≠ i2) (hmag : MagnitudesAt s.d (i1.val + 1) (i2.val + 1) m1 m2)
include hmag

/-- Step 5d's first magnitude is what the second leaves of S0 (R173). -/
theorem rsub_mag2 : rsub (s.decodeRooted root).s0 (BitVec.ofNat 4 m2) = BitVec.ofNat 4 m1 := by
  obtain ⟨h1, h2, -, hm1⟩ := hmag
  apply BitVec.eq_of_toNat_eq
  have h := rsub_toNat (s.decodeRooted root).s0 (BitVec.ofNat 4 m2)
  rw [decodeRooted_s0, syn_reg_toNat, ofNat_toNat_of_le m2 h2, ← hm1] at h
  rw [ofNat_toNat_of_le m1 h1]
  exact_mod_cast h

include hne

/-- Step 5d answers the second magnitude at two different positions (R173). -/
theorem rdiv_mag2 :
    rdiv (rsub (rmul (BitVec.ofNat 4 (i1.val + 1)) (s.decodeRooted root).s0) (s.decodeRooted root).s1)
      (rsub (BitVec.ofNat 4 (i1.val + 1)) (BitVec.ofNat 4 (i2.val + 1))) = some (BitVec.ofNat 4 m2) := by
  obtain ⟨-, h2, hm2, -⟩ := hmag
  have hden : ((rsub (BitVec.ofNat 4 (i1.val + 1)) (BitVec.ofNat 4 (i2.val + 1))).toNat : Int) =
      (((i1.val + 1 : Nat) : Int) - (i2.val + 1 : Nat)) % 11 := by
    rw [rsub_toNat, ofNat_toNat_of_le _ (by omega), ofNat_toNat_of_le _ (by omega)]
  refine rdiv_of_congr _ _ m2 (rsub_toNat_le _ _) h2 (ne_zero_of_toNat_ne_zero _ ?_) ?_
  · have hval := Fin.val_ne_of_ne hne
    omega
  · rw [hden, emod_mul_emod_eleven, hm2, rsub_toNat, rmul_toNat, decodeRooted_s0, decodeRooted_s1, syn_reg_toNat,
      syn_reg_toNat, ofNat_toNat_of_le _ (by omega), Int.emod_sub_emod]

/-- Steps 5d to 5g at two different positions: the test of the two corrected digits decides the end (R175, R176). -/
theorem correctTwo_positions :
    correctTwo (BitVec.ofNat 4 (i1.val + 1)) (BitVec.ofNat 4 (i2.val + 1)) i1 i2 (s.decodeRooted root) =
      if 9 < correctedDigit s.d i1 m1 ∨ 9 < correctedDigit s.d i2 m2 then
        uncorrectable .correctedToTen (s.decodeRooted root)
      else decodeFinish .double .noReason (s.decodeCorrected root m1 m2 i1 i2) := by
  have hmag2 := rdiv_mag2 s root m1 m2 i1 i2 hne hmag
  have hmag1 := rsub_mag2 s root m1 m2 i1 i2 hmag
  obtain ⟨h1, h2, -, -⟩ := hmag
  rw [correctTwo]
  simp only [hmag2, hmag1, decodeRooted_d, decodeRooted_c, mod11_correctedDigit s.d i1 m1 h1,
    mod11_correctedDigit s.d i2 m2 h2, correctedDigit_reg_toNat]
  rfl

/-- DECODE of a word with two different positions of 1 to 10 (R173 to R176). -/
theorem decode_positions (hdec : s.d.AllDecimal) (hbranch : DoubleErrorBranch s.d) (hroot : SmallerRoot s.d root)
    (hpos : RootPositions s.d root (i1.val + 1) (i2.val + 1)) :
    exec .decode s = .next (
      if 9 < correctedDigit s.d i1 m1 ∨ 9 < correctedDigit s.d i2 m2 then
        uncorrectable .correctedToTen (s.decodeRooted root)
      else decodeFinish .double .noReason (s.decodeCorrected root m1 m2 i1 i2)) := by
  rw [decode_rooted s root hdec hbranch hroot, locateTwo_positions s root i1 i2 hroot hpos,
    correctTwo_positions s root m1 m2 i1 i2 hne hmag]

end

/-- Settles O46: a corrected digit above 9 takes the uncorrectable end of step 5f. -/
theorem doubleBranchCorrectedToTen : Obligations.DoubleBranchCorrectedToTen := by
  intro s root m1 m2 i1 i2 hdec hbranch hroot hpos hne hmag hten
  rw [decode_positions s root m1 m2 i1 i2 hne hmag hdec hbranch hroot hpos, if_pos hten, uncorrectable_eq]
  rfl

/-- Settles O47: two decimal corrected digits take the end of step 5g. -/
theorem doubleBranchCorrectsTwoDigits : Obligations.DoubleBranchCorrectsTwoDigits := by
  intro s root m1 m2 i1 i2 hdec hbranch hroot hpos hne hmag h1 h2
  rw [decode_positions s root m1 m2 i1 i2 hne hmag hdec hbranch hroot hpos, if_neg (by omega), decodeFinish_eq]
  rfl

/-! ### The uncorrectable ends -/

/-- C = D, and no position and no magnitude is reported (R177). -/
abbrev NoCorrection (v : Digits) (t : State) : Prop :=
  t.c = v ∧ t.pos1 = 0 ∧ t.pos2 = 0 ∧ t.mag1 = 0 ∧ t.mag2 = 0

/-- UNCORRECTABLE is the end without a correction: C, the positions and the magnitudes stay (R177). -/
theorem SolverEnd.noCorrection {v : Digits} {s t : State} (h : SolverEnd s t)
    (hout : outcomeField t.status = DecodeEnd.uncorrectable.code) (hs : NoCorrection v s) : NoCorrection v t := by
  cases h with
  | uncorrected re => exact hs
  | corrected o ho =>
    rw [decodeFinish_status, outcomeField_statusWord] at hout
    exact absurd (DecodeEnd.code_inj _ _ hout) ho

/-- DECODE ends UNCORRECTABLE only on ten decimal digits (R161). -/
theorem allDecimal_of_uncorrectable (s t : State) (h : exec .decode s = .next t)
    (hout : outcomeField t.status = DecodeEnd.uncorrectable.code) : s.d.AllDecimal := by
  obtain ⟨hdec, -⟩ | ⟨e, -, rfl⟩ := execDecode_cases s t h
  · exact hdec
  · rw [raiseError_status, outcomeField_statusWord] at hout
    exact absurd hout (by decide)

/-- Settles O48: a DECODE that ends UNCORRECTABLE met ten decimal digits and a syndrome other than zero, and each of its
three ways to end leaves the registers of the step before. -/
theorem uncorrectableLeavesTheWord : Obligations.UncorrectableLeavesTheWord := by
  intro s t h hout
  have hdec := allDecimal_of_uncorrectable s t h hout
  obtain ⟨h0, h1, h2, h3, hP, hQ, hR⟩ := decode_decimal_holdsLocator s t hdec h
  have hbase : NoCorrection s.d s.decodeLocated := ⟨rfl, rfl, rfl, rfl, rfl⟩
  obtain ⟨-, rfl⟩ | ⟨hsingle, hend⟩ | ⟨hdouble, hnone, rfl⟩ | ⟨root, hdouble, hroot, hend⟩ :=
    decode_decimal_cases s t hdec h
  · rw [decodeFinish_status, outcomeField_statusWord] at hout
    exact absurd hout (by decide)
  · obtain ⟨hc, hp1, hp2, hm1, hm2⟩ := hend.noCorrection hout hbase
    exact ⟨hc, hp1, hp2, hm1, hm2, h0, h1, h2, h3, hP, hQ, hR, fun _ => ⟨hend.disc, hend.root⟩,
      fun hdouble => absurd hsingle.2 hdouble.2⟩
  · exact ⟨rfl, rfl, rfl, rfl, rfl, h0, h1, h2, h3, hP, hQ, hR, fun hsingle => absurd hsingle.2 hdouble.2,
      fun _ => ⟨discOf_reg_toNat s.d, .inr ⟨hnone, rfl⟩⟩⟩
  · obtain ⟨hc, hp1, hp2, hm1, hm2⟩ := hend.noCorrection (v := s.d) hout hbase
    exact ⟨hc, hp1, hp2, hm1, hm2, h0, h1, h2, h3, hP, hQ, hR, fun hsingle => absurd hsingle.2 hdouble.2,
      fun _ => ⟨hend.disc ▸ discOf_reg_toNat s.d, .inl ⟨root, hroot, hend.root ▸ root_reg_toNat s.d root hroot⟩⟩⟩

end Sys2Proof.Machine
end

section
/-! The error model of 60_exceptions: a command writes its write set alone, and an error zeroes it (R203). -/

namespace Sys2Proof.Machine

/-! ### Staying in a write set -/

/-- The write set of a command, without STATUS (the table of R203). -/
def writeSetOf : Instr → WriteSet
  | .new | .add | .sub | .mul | .div | .pow | .sqrt | .eq => .mau
  | .check => .check
  | .synd => .synd
  | .decode => .decode

/-- `s` with a write set's registers, STATUS and the ghost flag of `t`. -/
def takeWriteSet (ws : WriteSet) (t s : State) : State :=
  match ws with
  | .mau => { s with y := t.y, status := t.status, erred := t.erred }
  | .check => { s with c := t.c, status := t.status, erred := t.erred }
  | .synd =>
    { s with s0 := t.s0, s1 := t.s1, s2 := t.s2, s3 := t.s3, status := t.status, erred := t.erred }
  | .decode =>
    { s with
      s0 := t.s0, s1 := t.s1, s2 := t.s2, s3 := t.s3, p := t.p, q := t.q, r := t.r, disc := t.disc, root := t.root
      pos1 := t.pos1, pos2 := t.pos2, mag1 := t.mag1, mag2 := t.mag2, c := t.c
      status := t.status, erred := t.erred }
  | .nothing => { s with status := t.status, erred := t.erred }

/-- `t` is `s` outside the write set, STATUS and the ghost flag. -/
abbrev WritesOnly (ws : WriteSet) (s t : State) : Prop := t = takeWriteSet ws t s

/-- What R203 asks of a command with write set `ws` that takes `s` to `t`. -/
structure KeepsWriteSet (ws : WriteSet) (s t : State) : Prop where
  writesOnly : WritesOnly ws s t
  zeroed : errField t.status ≠ 0 → t = clearWriteSet ws t

theorem clearWriteSet_writesOnly (ws : WriteSet) (s : State) : WritesOnly ws s (clearWriteSet ws s) := by
  cases ws <;> rfl

/-- `finish` writes STATUS and the ghost flag, which every write set allows (R15). -/
theorem finish_writesOnly {ws : WriteSet} {s t : State} (h : WritesOnly ws s t) (op : BitVec 4) (err : Err)
    (o : DecodeEnd) (re : Reason) (pos : BitVec 4) : WritesOnly ws s (finish op err o re pos t) :=
  calc finish op err o re pos t
    _ = finish op err o re pos (takeWriteSet ws t s) := congrArg _ h
    _ = takeWriteSet ws (finish op err o re pos t) s := by cases ws <;> rfl

/-- An end with ERR = OK has nothing to zero. -/
theorem WritesOnly.keepsWriteSet_of_ok {ws : WriteSet} {s t : State} (h : WritesOnly ws s t) (op : BitVec 4)
    (o : DecodeEnd) (re : Reason) (pos : BitVec 4) : KeepsWriteSet ws s (finish op .ok o re pos t) where
  writesOnly := finish_writesOnly h op .ok o re pos
  zeroed herr := absurd (errField_statusWord .ok o re pos op) herr

/-- `raise Error` zeroes the write set and writes nothing outside it (R203). -/
theorem raiseError_keepsWriteSet (ws : WriteSet) (op : BitVec 4) (e : Raise) (s : State) :
    KeepsWriteSet ws s (raiseError ws op e s) where
  writesOnly := finish_writesOnly (clearWriteSet_writesOnly ws s) op e.code .notDecoded .noReason e.errpos
  zeroed _ := by cases ws <;> rfl

/-! ### The commands -/

theorem mauEnd_keepsWriteSet (i : Instr) (r : Except Raise Residue) (s t : State) (h : mauEnd i r s = .next t) :
    KeepsWriteSet .mau s t := by
  obtain ⟨v, -, rfl⟩ | ⟨e, -, rfl⟩ := mauEnd_cases i r s t h
  · have hwrites : WritesOnly .mau s { s with y := v } := rfl
    exact hwrites.keepsWriteSet_of_ok _ _ _ _
  · exact raiseError_keepsWriteSet _ _ _ _

theorem execCheck_keepsWriteSet (s t : State) (h : execCheck s = .next t) : KeepsWriteSet .check s t := by
  obtain ⟨-, -, rfl⟩ | ⟨e, -, rfl⟩ := execCheck_cases s t h
  · have hwrites : WritesOnly .check s { s with c := codeword s } := rfl
    exact hwrites.keepsWriteSet_of_ok _ _ _ _
  · exact raiseError_keepsWriteSet _ _ _ _

theorem execSynd_keepsWriteSet (s t : State) (h : execSynd s = .next t) : KeepsWriteSet .synd s t := by
  obtain ⟨-, rfl⟩ | ⟨e, -, rfl⟩ := execSynd_cases s t h
  · have hwrites : WritesOnly .synd s (loadSyndrome s) := rfl
    exact hwrites.keepsWriteSet_of_ok _ _ _ _
  · exact raiseError_keepsWriteSet _ _ _ _

/-- Steps 4 and 5b to 5g write C, the positions and the magnitudes at most, and end with ERR = OK (R160). -/
theorem SolverEnd.keepsWriteSet {s u t : State} (h : SolverEnd u t) (hu : WritesOnly .decode s u) :
    KeepsWriteSet .decode s t := by
  cases h with
  | uncorrected re => exact hu.keepsWriteSet_of_ok _ _ _ _
  | corrected o _ c pos1 pos2 mag1 mag2 =>
    have hwrites : WritesOnly .decode s
        { u with c := c, pos1 := pos1, pos2 := pos2, mag1 := mag1, mag2 := mag2 } :=
      congrArg (fun u : State => { u with c := c, pos1 := pos1, pos2 := pos2, mag1 := mag1, mag2 := mag2 }) hu
    exact hwrites.keepsWriteSet_of_ok _ _ _ _

theorem execDecode_keepsWriteSet (s t : State) (h : execDecode s = .next t) : KeepsWriteSet .decode s t := by
  obtain ⟨hdec, -⟩ | ⟨e, -, rfl⟩ := execDecode_cases s t h
  · have hbase : WritesOnly .decode s s.decodeBase := rfl
    have hlocated : WritesOnly .decode s s.decodeLocated := rfl
    have hdisc : WritesOnly .decode s { s.decodeLocated with disc := BitVec.ofInt 4 (discOf s.d) } := rfl
    have hrooted (root : Nat) : WritesOnly .decode s (s.decodeRooted root) := rfl
    obtain ⟨-, rfl⟩ | ⟨-, hend⟩ | ⟨-, -, rfl⟩ | ⟨root, -, -, hend⟩ := decode_decimal_cases s t hdec h
    · exact hbase.keepsWriteSet_of_ok _ _ _ _
    · exact hend.keepsWriteSet hlocated
    · exact hdisc.keepsWriteSet_of_ok _ _ _ _
    · exact hend.keepsWriteSet (hrooted root)
  · exact raiseError_keepsWriteSet _ _ _ _

/-- Every command keeps to its row of R203's table. -/
theorem exec_keepsWriteSet (i : Instr) (s t : State) (h : exec i s = .next t) : KeepsWriteSet (writeSetOf i) s t := by
  cases i with
  | check => exact execCheck_keepsWriteSet s t h
  | synd => exact execSynd_keepsWriteSet s t h
  | decode => exact execDecode_keepsWriteSet s t h
  | _ =>
    simp only [exec, execNew, execAdd, execSub, execMul, execDiv, execPow, execSqrt, execEq] at h
    exact mauEnd_keepsWriteSet _ _ s t h

/-- The eight MAU commands share one write set (R203). -/
theorem writeSetOf_eq_mau (i : Instr) (h : i ∈ [Instr.new, .add, .sub, .mul, .div, .pow, .sqrt, .eq]) :
    writeSetOf i = .mau := by
  revert h
  cases i <;> decide

/-- Settles O54: each command keeps to its row of R203's table, and an illegal word writes STATUS and the ghost flag. -/
theorem commandsStayInTheirWriteSets : Obligations.CommandsStayInTheirWriteSets := by
  refine ⟨fun i s t hi h => ?_, fun s t h => ?_, fun s t h => ?_, fun s t h => ?_, fun w s t hw h => ?_⟩
  · obtain ⟨hwrites, hzero⟩ := writeSetOf_eq_mau i hi ▸ exec_keepsWriteSet i s t h
    exact ⟨hwrites, fun herr => congrArg State.y (hzero herr)⟩
  · obtain ⟨hwrites, hzero⟩ := exec_keepsWriteSet .check s t h
    exact ⟨hwrites, fun herr => congrArg State.c (hzero herr)⟩
  · obtain ⟨hwrites, hzero⟩ := exec_keepsWriteSet .synd s t h
    refine ⟨hwrites, fun herr => ?_⟩
    rw [hzero herr]
    exact ⟨rfl, rfl, rfl, rfl⟩
  · obtain ⟨hwrites, hzero⟩ := exec_keepsWriteSet .decode s t h
    refine ⟨hwrites, fun herr => ?_⟩
    rw [hzero herr]
    exact ⟨rfl, rfl, rfl, rfl, rfl, rfl, rfl, rfl, rfl, rfl, rfl, rfl, rfl, rfl⟩
  · cases (executeCommand_of_illegalWord w s hw).symm.trans h
    rfl

end Sys2Proof.Machine
end

section
/-! The reset of 70_reset_and_hazards: one step at a reset event puts every register at its reset value (R220). -/

namespace Sys2Proof.Machine

/-- A step at a reset takes the event and resets the registers (R220). -/
theorem step_of_reset (s : State) (rest : List Event) (h : s.pending = .reset :: rest) :
    step s = .next (resetRegisters { s with pending := rest }) :=
  step_cons s .reset rest h

/-- Reset keeps only fields of the model's own, so each register reads as in the reset state (R43, R220). -/
@[simp] theorem readReg_resetRegisters (reg : Reg) (s : State) :
    readReg reg (resetRegisters s) = readReg reg State.reset := by
  cases reg <;> rfl

/-- Settles O15: after the step each register reads as in the reset state, where ID is its constant and all others
read 0. -/
theorem resetSetsEveryRegister : Obligations.ResetSetsEveryRegister := by
  intro s rest hp
  refine ⟨_, step_of_reset s rest hp, rfl, fun reg hreg => ?_⟩
  calc readReg reg (resetRegisters { s with pending := rest })
    _ = readReg reg State.reset := readReg_resetRegisters reg _
    _ = 0 := readReg_reset reg hreg

end Sys2Proof.Machine
end

section
/-! The command words and their commands: decode and encode are inverse to each other (R81, R82). -/

namespace Sys2Proof.Machine

/-- Every command's word decodes to it (R82). -/
theorem decode_encode (i : Instr) : decode (encode i) = .ok i := by
  cases i <;> decide

/-- Settles O2: the eleven words of the opcode map decode to their commands, and a word that decodes is its command's
word. -/
theorem decodeAndEncodeAgree : Obligations.DecodeAndEncodeAgree :=
  ⟨decode_encode, eq_encode_of_decode⟩

/-- Settles O1: each word of the map is evaluated. -/
theorem opcodeMapWordsDecode : Obligations.OpcodeMapWordsDecode := by
  unfold Obligations.OpcodeMapWordsDecode
  decide

end Sys2Proof.Machine
end

section
/-! The port of 20_memory: every transaction completes (R60), what was written reads back (R64), which events leave the
registers alone (R209), and the platform's view of the port (R68, R69). -/

namespace Sys2Proof.Machine

/-! ### Transactions -/

/-- Storing into a register takes no event, reads nothing and sets no flag. -/
@[simp] theorem storeReg_pending (reg : Reg) (w : Word) (s : State) : (storeReg reg w s).pending = s.pending := by
  cases reg <;> rfl
@[simp] theorem storeReg_returned (reg : Reg) (w : Word) (s : State) : (storeReg reg w s).returned = s.returned := by
  cases reg <;> rfl
@[simp] theorem storeReg_erred (reg : Reg) (w : Word) (s : State) : (storeReg reg w s).erred = s.erred := by
  cases reg <;> rfl

/-- A write transaction completes, and the events still to come stay as they were (R60). -/
theorem busWrite_completes (idx : RegIndex) (w : Word) (s : State) :
    ∃ t, busWrite idx w s = .next t ∧ t.pending = s.pending := by
  obtain ⟨-, h⟩ | ⟨reg, -, -, h⟩ | ⟨-, h⟩ := busWrite_cases idx w s
  · obtain ⟨t, ht⟩ := executeCommand_completes w s
    exact ⟨t, h.trans ht, (executeCommand_endsCommand w s t ht).pending⟩
  · exact ⟨_, h, storeReg_pending reg w s⟩
  · exact ⟨s, h, rfl⟩

/-- Settles O11: a read and a reset answer at once, and a write by `busWrite_completes`. -/
theorem everyTransactionCompletes : Obligations.EveryTransactionCompletes := by
  intro s e rest hp he
  rw [step_cons s e rest hp]
  obtain ⟨idx, rfl⟩ | ⟨idx, w, rfl⟩ | rfl := he
  · exact ⟨_, rfl, rfl⟩
  · exact busWrite_completes idx w _
  · exact ⟨_, rfl, rfl⟩

/-- Settles O12: a step without events is the waiting step. -/
theorem blockWaitsWithoutEvents : Obligations.BlockWaitsWithoutEvents := step_nil

/-! ### A read after a write -/

/-- After a write of a register, a read at once returns the register's new value (R62, R63). -/
theorem read_after_write (s : State) (rest : List Event) (reg : Reg) (w : Word) (hreg : reg ≠ .cmd)
    (hp : s.pending = .write reg.index w :: .read reg.index :: rest) :
    ∃ t u, step s = .next t ∧ step t = .next u ∧ u.pending = rest ∧
      u.returned = readReg reg (storeReg reg w s) :: s.returned := by
  have hread : readReg reg (storeReg reg w { s with pending := .read reg.index :: rest }) =
      readReg reg (storeReg reg w s) := by cases reg <;> rfl
  refine ⟨_, _, step_of_storeWrite s _ reg w hreg hp, step_of_read _ rest reg.index (storeReg_pending reg w _), rfl, ?_⟩
  rw [busRead_index, hread, storeReg_returned]

/-- The indices 0x20 to 0x29 are those of D[1..10] (R34). -/
theorem exists_index_d (idx : RegIndex) (hlo : 0x20 ≤ idx.toNat) (hhi : idx.toNat ≤ 0x29) :
    ∃ i : Fin 10, idx = (Reg.d i).index :=
  ⟨⟨idx.toNat - 0x20, by omega⟩, eq_index_d idx _ (Nat.add_sub_of_le hlo).symm⟩

/-- A digit register reads back bits [3:0] of the word written to it (R34, R64). -/
theorem readReg_storeReg_d (i : Fin 10) (w : Word) (s : State) :
    readReg (.d i) (storeReg (.d i) w s) = BitVec.ofNat 32 (w.toNat % 16) := by
  apply BitVec.eq_of_toNat_eq
  rw [readReg, BitVec.toNat_setWidth, toNat_get_storeReg_d, BitVec.toNat_ofNat]

/-- Settles O9: at A and B the word itself comes back, at D[i] its bits [3:0]. -/
theorem readAfterWriteReturnsTheValue : Obligations.ReadAfterWriteReturnsTheValue := by
  rintro s rest idx w hp (rfl | rfl | ⟨hlo, hhi⟩)
  · exact read_after_write s rest .a w (by decide) hp
  · exact read_after_write s rest .b w (by decide) hp
  · rw [if_neg (by omega)]
    obtain ⟨i, rfl⟩ := exists_index_d idx hlo hhi
    rw [← readReg_storeReg_d i w s]
    exact read_after_write s rest (.d i) w Reg.noConfusion hp

/-! ### Events that disturb nothing -/

/-- A write at an index that is writable is a disturbing event (R226). -/
theorem disturbs_write_of_writableIndex (idx : RegIndex) (w : Word) (h : WritableIndex idx) :
    disturbs (.write idx w) = true := by
  obtain rfl | rfl | rfl | ⟨hlo, hhi⟩ := h
  · rfl
  · rfl
  · rfl
  · obtain ⟨i, rfl⟩ := exists_index_d idx hlo hhi
    rw [disturbs, regAt_index]

/-- An event that does not disturb changes the words that were read at most (R209). -/
theorem deliver_of_not_disturbs (e : Event) (s t : State) (he : disturbs e = false) (h : deliver e s = .next t) :
    t = { s with returned := t.returned } := by
  cases e with
  | read idx => cases h; rfl
  | write idx w =>
    have hidx : ¬ WritableIndex idx := fun hw => by simp [disturbs_write_of_writableIndex idx w hw] at he
    cases (busWrite_of_not_writableIndex idx w s hidx).symm.trans h
    rfl
  | platformRead addr width =>
    rw [deliver, platformRead] at h
    split at h
    · cases h; rfl
    · cases h
  | platformWrite addr bytes => cases he
  | reset => cases he

/-- Settles O10: an event that does not disturb changes no field that a register shows. -/
theorem onlyWritesAndResetChangeRegisters : Obligations.OnlyWritesAndResetChangeRegisters := by
  intro s t e rest hp he h
  rw [step_cons s e rest hp] at h
  rw [deliver_of_not_disturbs e _ t he h]
  exact ⟨fun reg => by cases reg <;> rfl, rfl, rfl⟩

/-! ### The platform's bus -/

/-- Register index k stands at byte address BASE_ADDR + 4·k, for an access of four bytes, and nowhere else (R69). -/
theorem platformIndex_eq_some_iff (addr width : Nat) (k : RegIndex) :
    platformIndex addr width = some k ↔ width = 4 ∧ addr = Config.baseAddr + 4 * k.toNat := by
  have hbase : Config.baseAddr % 4 = 0 := by rw [Config.baseAddr]; omega
  have hk := k.isLt
  rw [platformIndex]
  split
  · next h =>
    rw [Option.some.injEq, ← BitVec.toNat_inj, BitVec.toNat_ofNat]
    omega
  · next h =>
    simp only [reduceCtorEq, false_iff]
    omega

/-- An access that is not of four bytes at a register's address has no index (R69). -/
theorem platformIndex_eq_none (addr width : Nat)
    (h : width ≠ 4 ∨ ∀ k : RegIndex, addr ≠ Config.baseAddr + 4 * k.toNat) : platformIndex addr width = none := by
  rw [Option.eq_none_iff_forall_ne_some]
  intro k hk
  obtain ⟨hw, ha⟩ := (platformIndex_eq_some_iff addr width k).mp hk
  exact h.elim (absurd hw) fun h => h k ha

/-- The number of a word of bytes: the first byte is the least significant. -/
theorem wordOfBytes_cons_toNat (x : Byte) (rest : List Byte) (h : (wordOfBytes rest).toNat < 2 ^ 24) :
    (wordOfBytes (x :: rest)).toNat = 256 * (wordOfBytes rest).toNat + x.toNat := by
  have hx := x.isLt
  rw [wordOfBytes, BitVec.toNat_or, BitVec.toNat_shiftLeft, BitVec.toNat_setWidth,
    Nat.mod_eq_of_lt (show x.toNat < 2 ^ 32 by omega), Nat.shiftLeft_eq, Nat.mod_eq_of_lt (by omega), ← Nat.shiftLeft_eq,
    ← Nat.shiftLeft_add_eq_or_of_lt (by omega), Nat.shiftLeft_eq]
  omega

/-- A word is made of its four bytes, the least significant first. -/
theorem wordOfBytes_bytes (w : Word) :
    wordOfBytes [w.extractLsb' 0 8, w.extractLsb' 8 8, w.extractLsb' 16 8, w.extractLsb' 24 8] = w := by
  have hw := w.isLt
  have hbyte (k : Nat) : (w.extractLsb' k 8).toNat = w.toNat / 2 ^ k % 256 := by
    rw [BitVec.extractLsb'_toNat, Nat.shiftRight_eq_div_pow]
  have hnil : (wordOfBytes []).toNat = 0 := rfl
  have hbyte0 := hbyte 0
  have hbyte8 := hbyte 8
  have hbyte16 := hbyte 16
  have hbyte24 := hbyte 24
  generalize w.extractLsb' 0 8 = b0, w.extractLsb' 8 8 = b1, w.extractLsb' 16 8 = b2, w.extractLsb' 24 8 = b3 at *
  have h3 := wordOfBytes_cons_toNat b3 [] (by omega)
  have h2 := wordOfBytes_cons_toNat b2 [b3] (by omega)
  have h1 := wordOfBytes_cons_toNat b1 [b2, b3] (by omega)
  have h0 := wordOfBytes_cons_toNat b0 [b1, b2, b3] (by omega)
  apply BitVec.eq_of_toNat_eq
  omega

/-- The adapter makes of a word's bytes the word itself, in either byte order (R68, log entry 9). -/
theorem adapterWord_adapterBytes (order : ByteOrder) (w : Word) : adapterWord order (adapterBytes order w) = w := by
  cases order <;> exact wordOfBytes_bytes w

@[simp] theorem length_adapterBytes (order : ByteOrder) (w : Word) : (adapterBytes order w).length = 4 := by
  cases order <;> rfl

/-- Settles O13: `platformIndex` names the index of an aligned 32-bit access to the window and refuses the rest, and a
platform write carries the bytes of its word. -/
theorem platformAccessIsAlignedWordOrRefused : Obligations.PlatformAccessIsAlignedWordOrRefused := by
  refine ⟨Dvd.intro _ rfl, fun s rest k hp => ?read, fun s rest k w hp => ?write, fun s rest addr width hp h => ?refusedRead,
    fun s rest addr bytes hp h => ?refusedWrite⟩
  case read =>
    rw [step_cons s _ rest hp, step_cons { s with pending := .read k :: rest } _ rest rfl, deliver, deliver, platformRead,
      (platformIndex_eq_some_iff _ _ k).mpr ⟨rfl, rfl⟩]
  case write =>
    rw [step_cons s _ rest hp, step_cons { s with pending := .write k w :: rest } _ rest rfl, deliver, deliver,
      platformWrite, (platformIndex_eq_some_iff _ _ k).mpr ⟨length_adapterBytes _ w, rfl⟩]
    dsimp only
    rw [adapterWord_adapterBytes]
  case refusedRead => rw [step_cons s _ rest hp, deliver, platformRead, platformIndex_eq_none addr width h]
  case refusedWrite => rw [step_cons s _ rest hp, deliver, platformWrite, platformIndex_eq_none addr _ h]

end Sys2Proof.Machine
end

section
/-! What a command can report: the errors it raises (60_exceptions sections 1 and 2), and the STATUS it leaves
(10_state section 3). -/

namespace Sys2Proof.Machine

/-! ### The results of the modular arithmetic unit -/

/-- What an MAU command answers, as a function of A and B alone (R110 to R117); the other commands answer nothing here. -/
def mauResult (i : Instr) (a b : Word) : Except Raise Residue :=
  match i with
  | .new => .ok (mod11 a.toInt)
  | .add => do let x ← canon a 1; let y ← canon b 2; .ok (radd x y)
  | .sub => do let x ← canon a 1; let y ← canon b 2; .ok (rsub x y)
  | .mul => do let x ← canon a 1; let y ← canon b 2; .ok (rmul x y)
  | .div => do let x ← canon a 1; let y ← canon b 2; answerOr .divZero (rdiv x y)
  | .pow => do let x ← canon a 1; let n ← (if b = 0 then .error ⟨.badExp, 0⟩ else .ok b); .ok (rpow32 x n)
  | .sqrt => do let x ← canon a 1; answerOr .noRoot (rsqrt x)
  | .eq => do let x ← canon a 1; let y ← canon b 2; .ok (req x y)
  | .check | .synd | .decode => .ok 0

/-- The MAU commands end with their result. -/
theorem exec_eq_mauEnd (i : Instr) (s : State) (h : writeSetOf i = .mau) :
    exec i s = mauEnd i (mauResult i s.a s.b) s := by
  cases i with
  | check | synd | decode => cases h
  | _ => rfl

/-- An MAU command ends with its result in Y, or with its error and Y zeroed (40_modular_arithmetic section 2). -/
theorem exec_mau_cases (i : Instr) (s t : State) (hws : writeSetOf i = .mau) (h : exec i s = .next t) :
    (∃ v, mauResult i s.a s.b = .ok v ∧ t = finishOk i.opcode { s with y := v }) ∨
    (∃ e, mauResult i s.a s.b = .error e ∧ t = raiseError .mau i.opcode e s) :=
  mauEnd_cases i _ s t (exec_eq_mauEnd i s hws ▸ h)

/-- An error of two checks in sequence is one of theirs. -/
theorem bind_eq_error {α β : Type} {x : Except Raise α} {f : α → Except Raise β} {e : Raise}
    (h : x >>= f = .error e) : x = .error e ∨ ∃ a, x = .ok a ∧ f a = .error e := by
  cases x with
  | error e' => cases h; exact .inl rfl
  | ok a => exact .inr ⟨a, rfl, h⟩

/-- A result behind a check is that of a value that passes it. -/
theorem bind_eq_ok {α β : Type} {x : Except Raise α} {f : α → Except Raise β} {v : β} (h : x >>= f = .ok v) :
    ∃ a, x = .ok a ∧ f a = .ok v := by
  cases x with
  | error e => cases h
  | ok a => exact ⟨a, rfl, h⟩

theorem eq_of_canon_error {v : Word} {place : BitVec 4} {e : Raise} (h : canon v place = .error e) :
    e = ⟨.noncanon, place⟩ := by
  rw [canon] at h
  split at h <;> cases h
  rfl

theorem eq_of_answerOr_error {code : Err} {o : Option Residue} {e : Raise} (h : answerOr code o = .error e) :
    e = ⟨code, 0⟩ := by
  cases o <;> cases h
  rfl

theorem eq_of_answerOr_ok {code : Err} {o : Option Residue} {v : Residue} (h : answerOr code o = .ok v) :
    o = some v := by
  cases o <;> cases h
  rfl

/-- The errors of a command that reads A and B as residues: NONCANON at either place, or its own (R109). -/
theorem operands_error {a b : Word} {f : Residue → Residue → Except Raise Residue} {e : Raise}
    (h : (do let x ← canon a 1; let y ← canon b 2; f x y) = .error e) :
    e = ⟨.noncanon, 1⟩ ∨ e = ⟨.noncanon, 2⟩ ∨ ∃ x y, f x y = .error e := by
  obtain ha | ⟨x, -, h⟩ := bind_eq_error h
  · exact .inl (eq_of_canon_error ha)
  · obtain hb | ⟨y, -, h⟩ := bind_eq_error h
    · exact .inr (.inl (eq_of_canon_error hb))
    · exact .inr (.inr ⟨x, y, h⟩)

/-- A command can raise an error of its own row of R200, at a place that R28 allows it. -/
abbrev CanRaise (i : Instr) (e : Raise) : Prop :=
  e.code ∈ errorsOf i ∧ e.errpos.toNat ∈ errposBeside e.code.code i.opcode

/-- An MAU command raises only errors of its own (R200). -/
theorem mauResult_canRaise (i : Instr) (a b : Word) (e : Raise) (h : mauResult i a b = .error e) : CanRaise i e := by
  cases i with
  | new | check | synd | decode => cases h
  | add | sub | mul | eq =>
    obtain rfl | rfl | ⟨x, y, hf⟩ := operands_error h
    · decide
    · decide
    · cases hf
  | div =>
    obtain rfl | rfl | ⟨x, y, hf⟩ := operands_error h
    · decide
    · decide
    · obtain rfl := eq_of_answerOr_error hf
      decide
  | pow =>
    obtain ha | ⟨x, -, hf⟩ := bind_eq_error h
    · obtain rfl := eq_of_canon_error ha
      decide
    · obtain hb | ⟨n, -, hf⟩ := bind_eq_error hf
      · split at hb <;> cases hb
        decide
      · cases hf
  | sqrt =>
    obtain ha | ⟨x, -, hf⟩ := bind_eq_error h
    · obtain rfl := eq_of_canon_error ha
      decide
    · obtain rfl := eq_of_answerOr_error hf
      decide

theorem rpow32_toNat_le (a : Residue) (n : Word) : (rpow32 a n).toNat ≤ 10 := by
  rw [rpow32_toNat]
  omega

/-- An MAU command answers a canonical residue (R42). -/
theorem mauResult_canonical (i : Instr) (a b : Word) (v : Residue) (h : mauResult i a b = .ok v) : Canonical v := by
  cases i with
  | new => cases h; exact mod11_toNat_le _
  | check | synd | decode => cases h; decide
  | add | sub | mul =>
    obtain ⟨x, -, h⟩ := bind_eq_ok h
    obtain ⟨y, -, h⟩ := bind_eq_ok h
    cases h
    exact mod11_toNat_le _
  | div =>
    obtain ⟨x, -, h⟩ := bind_eq_ok h
    obtain ⟨y, -, h⟩ := bind_eq_ok h
    exact (rdiv_some x y v (eq_of_answerOr_ok h)).2.1
  | pow =>
    obtain ⟨x, -, h⟩ := bind_eq_ok h
    obtain ⟨n, -, h⟩ := bind_eq_ok h
    cases h
    exact rpow32_toNat_le x n
  | sqrt =>
    obtain ⟨x, -, h⟩ := bind_eq_ok h
    exact (rsqrt_some x v (eq_of_answerOr_ok h)).1.trans (by decide)
  | eq =>
    obtain ⟨x, -, h⟩ := bind_eq_ok h
    obtain ⟨y, -, h⟩ := bind_eq_ok h
    cases h
    rw [req]
    split <;> decide

/-! ### The digit checks -/

/-- A command whose digit check raises INVALID_DIGIT reports a position of the digits it checks (R28, R144). -/
theorem checkDigits_canRaise (i : Instr) (l : List Nibble) (e : Raise) (h : checkDigits l = .error e)
    (hi : Err.invalidDigit ∈ errorsOf i) (hl : l.length ≤ 10)
    (hplace : ∀ p, 1 ≤ p → p ≤ l.length → p ∈ errposBeside Err.invalidDigit.code i.opcode) : CanRaise i e := by
  obtain ⟨hcode, p, h1, h2, hpos⟩ := checkDigits_error l e h
  rw [CanRaise, hcode, hpos, ofNat_toNat_of_le p (by omega)]
  exact ⟨hi, hplace p h1 h2⟩

theorem checkDigits_receivedWord_canRaise (i : Instr) (hi : i = .synd ∨ i = .decode) (s : State) (e : Raise)
    (h : checkDigits (receivedWord s) = .error e) : CanRaise i e := by
  have hplace (p : Nat) (h1 : 1 ≤ p) (h2 : p ≤ 10) : p ∈ [1, 2, 3, 4, 5, 6, 7, 8, 9, 10] := by
    simp only [List.mem_cons, List.not_mem_nil, or_false]
    omega
  obtain rfl | rfl := hi
  · exact checkDigits_canRaise .synd _ e h (by decide) s.d.length_toList.le hplace
  · exact checkDigits_canRaise .decode _ e h (by decide) s.d.length_toList.le hplace

/-- CHECK raises INVALID_DIGIT in the payload, or UNUSABLE at a check digit (R146). -/
theorem check_canRaise (s : State) (e : Raise)
    (h : checkDigits (payload s) = .error e ∨ checkUsable (checkValues (payload s)) = .error e) : CanRaise .check e := by
  obtain h | h := h
  · refine checkDigits_canRaise .check _ e h (by decide) (by simp) fun p h1 h2 => ?_
    have h6 : p ≤ 6 := h2
    show p ∈ [1, 2, 3, 4, 5, 6]
    simp only [List.mem_cons, List.not_mem_nil, or_false]
    omega
  · obtain ⟨hcode, p, h1, h2, hpos⟩ := checkUsable_error _ e h
    have h10 : p < 11 := h2
    rw [CanRaise, hcode, hpos, ofNat_toNat_of_le p (by omega)]
    refine ⟨by decide, ?_⟩
    show p ∈ [7, 8, 9, 10]
    simp only [List.mem_cons, List.not_mem_nil, or_false]
    omega

/-! ### The ends of DECODE on ten decimal digits -/

/-- The four ends of DECODE on ten decimal digits, with what each has found (R162, R165 to R177). -/
inductive DecimalEnd (s : State) : State → Prop
  /-- Step 2: a zero syndrome. -/
  | noError (hzero : SyndromeZero s.d) : DecimalEnd s (decodeFinish .noError .noReason s.decodeBase)
  /-- Steps 4a, 4c, 5a to 5d and 5f. -/
  | uncorrected (hne : ¬ SyndromeZero s.d) (re : Reason) (hre : re ≠ .noReason) (disc root : Residue)
    (hdisc : Canonical disc) (hroot : Canonical root) :
    DecimalEnd s (uncorrectable re { s.decodeLocated with disc := disc, root := root })
  /-- Step 4d. -/
  | single (hbranch : SingleErrorBranch s.d) (pos : Residue) (i : Fin 10)
    (hpos : rdiv s.decodeLocated.s1 s.decodeLocated.s0 = some pos) (hi : digitAt pos = some i) :
    DecimalEnd s (decodeFinish .single .noReason { s.decodeLocated with
      c := s.d.set i (rsub (s.d.get i) s.decodeLocated.s0), pos1 := pos, mag1 := s.decodeLocated.s0 })
  /-- Step 5g. -/
  | double (hbranch : DoubleErrorBranch s.d) (root : Nat) (hroot : SmallerRoot s.d root)
    (pos1 pos2 mag2 : Residue) (i1 i2 : Fin 10) (n1 n2 : Nibble)
    (hpos1 : rdiv (rsub (BitVec.ofNat 4 root) s.decodeLocated.q) (rmul 2 s.decodeLocated.p) = some pos1)
    (hpos2 : rdiv (rsub (rneg s.decodeLocated.q) (BitVec.ofNat 4 root)) (rmul 2 s.decodeLocated.p) = some pos2)
    (hi1 : digitAt pos1 = some i1) (hi2 : digitAt pos2 = some i2)
    (hmag2 : rdiv (rsub (rmul pos1 s.decodeLocated.s0) s.decodeLocated.s1) (rsub pos1 pos2) = some mag2)
    (hn1 : n1 = mod11 ((s.d.get i1).toNat + (11 - (rsub s.decodeLocated.s0 mag2).toNat)))
    (hn2 : n2 = mod11 ((s.d.get i2).toNat + (11 - mag2.toNat))) (hdec1 : Decimal n1) (hdec2 : Decimal n2) :
    DecimalEnd s (decodeFinish .double .noReason { s.decodeRooted root with
      c := (s.d.set i1 n1).set i2 n2, pos1 := pos1, pos2 := pos2, mag1 := rsub s.decodeLocated.s0 mag2, mag2 := mag2 })

theorem singleBranch_decimalEnd (s : State) (hbranch : SingleErrorBranch s.d) :
    DecimalEnd s (singleBranch s.decodeLocated) := by
  obtain ⟨-, h⟩ | ⟨_, -, -, h⟩ | ⟨pos, i, hpos, hi, h⟩ := singleBranch_cases s.decodeLocated
  · exact h ▸ .uncorrected hbranch.1 _ (by decide) 0 0 (by decide) (by decide)
  · exact h ▸ .uncorrected hbranch.1 _ (by decide) 0 0 (by decide) (by decide)
  · exact h ▸ .single hbranch pos i hpos hi

theorem discOf_canonical (v : Digits) : Canonical (BitVec.ofInt 4 (discOf v)) := by
  have hreg := discOf_reg_toNat v
  have hlt := discOf_lt v
  omega

theorem doubleBranch_decimalEnd (s : State) (hbranch : DoubleErrorBranch s.d) :
    DecimalEnd s (doubleBranch s.decodeLocated) := by
  by_cases hdisc : discOf s.d ∈ [2, 6, 7, 8, 10]
  · rw [doubleBranch_noRoot s hdisc]
    exact .uncorrected hbranch.1 _ (by decide) _ 0 (discOf_canonical s.d) (by decide)
  · obtain ⟨root, hroot⟩ := (exists_smallerRoot_iff s.d).mpr hdisc
    rw [doubleBranch_root s root hroot]
    obtain ⟨re, hre, h⟩ | ⟨pos1, pos2, i1, i2, mag2, n1, n2, hpos1, hpos2, hi1, hi2, hmag2, hn1, hn2, hdec1, hdec2, h⟩ :=
      locateTwo_cases (BitVec.ofNat 4 root) (s.decodeRooted root)
    · refine h ▸ .uncorrected hbranch.1 re hre _ (BitVec.ofNat 4 root) (discOf_canonical s.d) ?_
      rw [Canonical, root_reg_toNat s.d root hroot]
      omega
    · exact h ▸ .double hbranch root hroot pos1 pos2 mag2 i1 i2 n1 n2 hpos1 hpos2 hi1 hi2 hmag2 hn1 hn2 hdec1 hdec2

/-- DECODE of ten decimal digits ends in one of the four ways (R160). -/
theorem exec_decode_decimalEnd (s t : State) (hdec : s.d.AllDecimal) (h : exec .decode s = .next t) :
    DecimalEnd s t := by
  cases (execDecode_eq s hdec).symm.trans h
  split
  · next hzero => exact .noError hzero
  · next hzero =>
    split
    · next hcoef => exact singleBranch_decimalEnd s ⟨hzero, hcoef⟩
    · next hcoef => exact doubleBranch_decimalEnd s ⟨hzero, hcoef⟩

/-- DECODE ends as on ten decimal digits, or with INVALID_DIGIT and its write set zeroed (R161). -/
theorem exec_decode_ends (s t : State) (h : exec .decode s = .next t) :
    (s.d.AllDecimal ∧ DecimalEnd s t) ∨
    (∃ e, checkDigits (receivedWord s) = .error e ∧ t = raiseError .decode Instr.decode.opcode e s) := by
  obtain ⟨hdec, -⟩ | herr := execDecode_cases s t h
  · exact .inl ⟨hdec, exec_decode_decimalEnd s t hdec h⟩
  · exact .inr herr

/-! ### The legal STATUS words -/

/-- What R24 to R28 ask of the fields that `finish` writes. -/
theorem statusLegal_statusWord (e : Err) (o : DecodeEnd) (r : Reason) (p l : BitVec 4) (he : e ∈ errorsBeside l)
    (hp : p.toNat ∈ errposBeside e.code l) (ho : o ≠ .notDecoded ↔ e = .ok ∧ l = Instr.decode.opcode)
    (hr : r ≠ .noReason ↔ o = .uncorrectable) : StatusLegal (statusWord e o r p l) := by
  obtain ⟨hz1, hz2, hz3⟩ := reserved_statusWord e o r p l
  have hE : e.code = Err.ok.code ↔ e = .ok := ⟨Err.code_inj e .ok, congrArg _⟩
  have hN : o.code = DecodeEnd.notDecoded.code ↔ o = .notDecoded := ⟨DecodeEnd.code_inj o _, congrArg _⟩
  have hU : o.code = DecodeEnd.uncorrectable.code ↔ o = .uncorrectable := ⟨DecodeEnd.code_inj o _, congrArg _⟩
  have hR : r.code = Reason.noReason.code ↔ r = .noReason := ⟨Reason.code_inj r _, congrArg _⟩
  refine ⟨⟨hz1, hz2, hz3, ?_, ?_, ?_⟩, ⟨?_, ?_⟩, ?_, ?_⟩
  · rw [errField_statusWord]; exact e.code_toNat_le
  · rw [outcomeField_statusWord]; exact o.code_toNat_le
  · rw [reasonField_statusWord]; exact r.code_toNat_le
  · rw [errField_statusWord, lastopField_statusWord]; exact List.mem_map_of_mem he
  · rw [errField_statusWord, errposField_statusWord, lastopField_statusWord]; exact hp
  · rwa [outcomeField_statusWord, errField_statusWord, lastopField_statusWord, hE, ne_eq, hN]
  · rwa [reasonField_statusWord, outcomeField_statusWord, hU, ne_eq, hR]

/-- A command that raises an error of its own leaves a legal STATUS. -/
theorem statusLegal_of_canRaise (i : Instr) (e : Raise) (h : CanRaise i e) :
    StatusLegal (statusWord e.code .notDecoded .noReason e.errpos i.opcode) := by
  obtain ⟨hcode, hpos⟩ := h
  have hok : e.code ≠ .ok := by
    rintro hok
    rw [hok] at hcode
    cases i <;> exact absurd hcode (by decide)
  have hbeside : errorsBeside i.opcode = .ok :: .illegal :: errorsOf i := by cases i <;> rfl
  refine statusLegal_statusWord _ _ _ _ _ ?_ hpos (by simp [hok]) (by decide)
  rw [hbeside]
  exact List.mem_cons_of_mem _ (List.mem_cons_of_mem _ hcode)

/-- A command other than DECODE that raised nothing leaves a legal STATUS. -/
theorem statusLegal_of_ok (i : Instr) (hi : i ≠ .decode) :
    StatusLegal (statusWord .ok .notDecoded .noReason 0 i.opcode) := by
  cases i with
  | decode => exact absurd rfl hi
  | _ => decide

/-- A DECODE that raised nothing leaves a legal STATUS: an outcome, and a reason exactly for UNCORRECTABLE (R26, R27). -/
theorem statusLegal_of_decodeFinish (o : DecodeEnd) (r : Reason) (s : State) (ho : o ≠ .notDecoded)
    (hr : r ≠ .noReason ↔ o = .uncorrectable) : StatusLegal (decodeFinish o r s).status :=
  statusLegal_statusWord _ o r 0 _ (by decide) (by decide) (iff_of_true ho ⟨rfl, rfl⟩) hr

/-- An illegal word leaves a legal STATUS, whatever its opcode field (R83). -/
theorem statusLegal_of_illegal (op : BitVec 4) : StatusLegal (statusWord .illegal .notDecoded .noReason 0 op) := by
  refine statusLegal_statusWord _ _ _ _ _ ?_ (by decide +revert) (by simp) (by decide)
  rw [errorsBeside]
  split <;> simp

theorem DecimalEnd.statusLegal {s t : State} (h : DecimalEnd s t) : StatusLegal t.status := by
  cases h with
  | noError => exact statusLegal_of_decodeFinish _ _ _ (by decide) (by decide)
  | uncorrected _ re hre => exact statusLegal_of_decodeFinish _ re _ (by decide) (by simp [hre])
  | single => exact statusLegal_of_decodeFinish _ _ _ (by decide) (by decide)
  | double => exact statusLegal_of_decodeFinish _ _ _ (by decide) (by decide)

/-- Every command leaves a legal STATUS. -/
theorem exec_statusLegal (i : Instr) (s t : State) (h : exec i s = .next t) : StatusLegal t.status := by
  cases i with
  | check =>
    obtain ⟨-, -, rfl⟩ | ⟨e, he, rfl⟩ := execCheck_cases s t h
    · exact statusLegal_of_ok .check (by decide)
    · exact statusLegal_of_canRaise .check e (check_canRaise s e he)
  | synd =>
    obtain ⟨-, rfl⟩ | ⟨e, he, rfl⟩ := execSynd_cases s t h
    · exact statusLegal_of_ok .synd (by decide)
    · exact statusLegal_of_canRaise .synd e (checkDigits_receivedWord_canRaise _ (.inl rfl) s e he)
  | decode =>
    obtain ⟨-, hend⟩ | ⟨e, he, rfl⟩ := exec_decode_ends s t h
    · exact hend.statusLegal
    · exact statusLegal_of_canRaise .decode e (checkDigits_receivedWord_canRaise _ (.inr rfl) s e he)
  | _ =>
    obtain ⟨v, -, rfl⟩ | ⟨e, he, rfl⟩ := exec_mau_cases _ s t rfl h
    · exact statusLegal_of_ok _ (by decide)
    · exact statusLegal_of_canRaise _ e (mauResult_canRaise _ _ _ e he)

/-- Settles O19: a command reports an outcome or an error of its own, and an illegal word ILLEGAL. -/
theorem everyCommandWritesLegalStatus : Obligations.EveryCommandWritesLegalStatus := by
  intro w s t h
  obtain ⟨i, -, hi⟩ | ⟨_, -, rfl⟩ := executeCommand_cases w s t h
  · exact exec_statusLegal i s t hi
  · exact statusLegal_of_illegal (opcField w)

end Sys2Proof.Machine
end

section
/-! The invariant of 10_state: residues, reported positions and decimal output after every step (R35, R42), and the ghost
flag that records every error (R215). -/

namespace Sys2Proof.Machine

/-! ### The ghost flag -/

/-- A command sets the ghost flag exactly when it reports an error, and never clears it (R215). -/
theorem EndsCommand.erred {op : BitVec 4} {s t : State} (h : EndsCommand op s t) :
    t.erred = (s.erred || errField t.status != 0) := by
  obtain ⟨err, o, re, pos, hstatus, herred⟩ := h.status
  rw [herred, hstatus, errField_statusWord]
  cases err <;> rfl

/-- What one delivery does to the state: a read, a store or an ignored write, a command, or reset (R60 to R66, R220). -/
theorem deliver_effects (e : Event) (s t : State) (h : deliver e s = .next t) :
    (∃ l, t = { s with returned := l }) ∨ (∃ reg w, t = storeReg reg w s) ∨ (∃ w, executeCommand w s = .next t) ∨
    t = resetRegisters s := by
  obtain ⟨idx, rfl⟩ | ⟨idx, w, hw⟩ | ⟨-, rfl⟩ := deliver_cases e s t h
  · exact .inl ⟨_, rfl⟩
  · obtain ⟨-, hcmd⟩ | ⟨reg, -, -, hstore⟩ | ⟨-, hnone⟩ := busWrite_cases idx w s
    · exact .inr (.inr (.inl ⟨w, hcmd.symm.trans hw⟩))
    · cases hstore.symm.trans hw
      exact .inr (.inl ⟨reg, w, rfl⟩)
    · cases hnone.symm.trans hw
      exact .inl ⟨_, rfl⟩
  · exact .inr (.inr (.inr rfl))

/-- No event clears the ghost flag (R215). -/
theorem deliver_keeps_erred (e : Event) (s t : State) (h : deliver e s = .next t) (hs : s.erred = true) :
    t.erred = true := by
  obtain ⟨_, rfl⟩ | ⟨reg, w, rfl⟩ | ⟨w, hw⟩ | rfl := deliver_effects e s t h
  · exact hs
  · exact (storeReg_erred reg w s).trans hs
  · rw [(executeCommand_endsCommand w s t hw).erred, hs, Bool.true_or]
  · exact hs

/-- Settles O22: every delivery keeps the flag, and a CMD write records the error that it reports. -/
theorem ghostFlagRecordsErrors : Obligations.GhostFlagRecordsErrors := by
  refine fun s t h => ⟨fun hs => ?_, fun w rest hp => ?_⟩
  · obtain ⟨-, rfl⟩ | ⟨e, rest, -, hd⟩ := step_cases s t h
    · exact hs
    · exact deliver_keeps_erred e _ t hd hs
  · rw [step_of_cmdWrite s rest w hp] at h
    exact (executeCommand_endsCommand w _ t h).erred

/-! ### Canonical residues -/

/-- A property of every digit holds after one digit is replaced by a value that has it. -/
theorem Digits.forall_get_set {p : Nibble → Prop} {v : Digits} {i : Fin 10} {x : Nibble} (hv : ∀ j, p (v.get j))
    (hx : p x) (j : Fin 10) : p ((v.set i x).get j) := by
  by_cases hj : j = i
  · rw [hj, Digits.get_set_self]
    exact hx
  · rw [Digits.get_set_of_ne v i j x hj]
    exact hv j

/-- A decimal digit is a canonical residue. -/
theorem Digits.AllDecimal.canonical {v : Digits} (h : v.AllDecimal) (i : Fin 10) : Canonical (v.get i) :=
  (h i).trans (by decide)

theorem syn_reg_canonical (v : Digits) (k : Nat) : Canonical (BitVec.ofInt 4 (syn v k)) := by
  have hreg := syn_reg_toNat v k
  have hlt := syn_lt v k
  omega

/-- DECODE's registers after step 3 hold residues (R42, R161, R163). -/
theorem decodeLocated_residues (s : State) (hy : Canonical s.y) (hdec : s.d.AllDecimal) :
    s.decodeLocated.ResiduesCanonical := by
  have hP : Canonical (BitVec.ofInt 4 (coefP s.d)) := by
    have := coefP_reg_toNat s.d; have := coefP_lt s.d; omega
  have hQ : Canonical (BitVec.ofInt 4 (coefQ s.d)) := by
    have := coefQ_reg_toNat s.d; have := coefQ_lt s.d; omega
  have hR : Canonical (BitVec.ofInt 4 (coefR s.d)) := by
    have := coefR_reg_toNat s.d; have := coefR_lt s.d; omega
  have h0 : Canonical 0 := by decide
  exact ⟨hy, syn_reg_canonical _ 0, syn_reg_canonical _ 1, syn_reg_canonical _ 2, syn_reg_canonical _ 3, hP, hQ, hR,
    h0, h0, h0, h0, h0, h0, hdec.canonical⟩

/-- Residues stay in the registers that steps 4 and 5 write when each value written is one. -/
theorem State.ResiduesCanonical.solved {s : State} (h : s.ResiduesCanonical) {disc root pos1 pos2 mag1 mag2 : Residue}
    {c : Digits} (hdisc : Canonical disc) (hroot : Canonical root) (hpos1 : Canonical pos1) (hpos2 : Canonical pos2)
    (hmag1 : Canonical mag1) (hmag2 : Canonical mag2) (hc : ∀ i, Canonical (c.get i)) :
    { s with disc := disc, root := root, pos1 := pos1, pos2 := pos2, mag1 := mag1, mag2 := mag2,
             c := c }.ResiduesCanonical := by
  obtain ⟨hy, h0, h1, h2, h3, hp, hq, hr, -⟩ := h
  exact ⟨hy, h0, h1, h2, h3, hp, hq, hr, hdisc, hroot, hpos1, hpos2, hmag1, hmag2, hc⟩

/-- Zeroing a write set leaves residues in the result registers (R203). -/
theorem clearWriteSet_residues (ws : WriteSet) (s : State) (h : s.ResiduesCanonical) :
    (clearWriteSet ws s).ResiduesCanonical := by
  obtain ⟨hy, h0, h1, h2, h3, hp, hq, hr, hdisc, hroot, hpos1, hpos2, hmag1, hmag2, hc⟩ := h
  have hz : Canonical 0 := by decide
  have hzero (i : Fin 10) : Canonical (Digits.zero.get i) := by rw [Digits.get_zero]; exact hz
  cases ws with
  | mau => exact ⟨hz, h0, h1, h2, h3, hp, hq, hr, hdisc, hroot, hpos1, hpos2, hmag1, hmag2, hc⟩
  | check => exact ⟨hy, h0, h1, h2, h3, hp, hq, hr, hdisc, hroot, hpos1, hpos2, hmag1, hmag2, hzero⟩
  | synd => exact ⟨hy, hz, hz, hz, hz, hp, hq, hr, hdisc, hroot, hpos1, hpos2, hmag1, hmag2, hc⟩
  | decode => exact ⟨hy, hz, hz, hz, hz, hz, hz, hz, hz, hz, hz, hz, hz, hz, hzero⟩
  | nothing => exact ⟨hy, h0, h1, h2, h3, hp, hq, hr, hdisc, hroot, hpos1, hpos2, hmag1, hmag2, hc⟩

/-- SYND leaves residues in S0..S3 (R147). -/
theorem loadSyndrome_residues (s : State) (h : s.ResiduesCanonical) : (loadSyndrome s).ResiduesCanonical := by
  obtain ⟨hy, -, -, -, -, hrest⟩ := h
  exact ⟨hy, mod11_toNat_le _, mod11_toNat_le _, mod11_toNat_le _, mod11_toNat_le _, hrest⟩

/-- The digits of the codeword, one by one: the payload's and the check digits (R146). -/
theorem forall_get_codeword {p : Nibble → Prop} (s : State) (hpay : ∀ x ∈ payload s, p x)
    (hchk : ∀ k, p (wsum (wChk k) (payload s))) (i : Fin 10) : p ((codeword s).get i) := by
  have hpay6 := (forall_mem_payload s p).mp hpay
  fin_cases i
  · exact hpay6 0 (by decide)
  · exact hpay6 1 (by decide)
  · exact hpay6 2 (by decide)
  · exact hpay6 3 (by decide)
  · exact hpay6 4 (by decide)
  · exact hpay6 5 (by decide)
  · exact hchk 0
  · exact hchk 1
  · exact hchk 2
  · exact hchk 3

/-! ### What a command leaves in its registers -/

/-- The part of the invariant that speaks of the result registers (R35, R39, R42). -/
abbrev SoundRegisters (s : State) : Prop := s.ResiduesCanonical ∧ s.PositionsReported ∧ s.OutputDecimal

/-- Where STATUS reports no outcome of DECODE, the invariant asks for residues alone. -/
theorem soundRegisters_of_notDecoded {t : State} (hres : t.ResiduesCanonical)
    (hout : outcomeField t.status = DecodeEnd.notDecoded.code) : SoundRegisters t := by
  refine ⟨hres, ⟨fun h => ?_, fun h => ?_⟩, fun h => absurd hout h⟩
  · exact absurd (hout.symm.trans h) (by decide)
  · exact absurd (hout.symm.trans h) (by decide)

theorem finishOk_sound (op : BitVec 4) {s : State} (h : s.ResiduesCanonical) : SoundRegisters (finishOk op s) :=
  soundRegisters_of_notDecoded h (outcomeField_statusWord _ _ _ _ _)

theorem raiseError_sound (ws : WriteSet) (op : BitVec 4) (e : Raise) {s : State} (h : s.ResiduesCanonical) :
    SoundRegisters (raiseError ws op e s) :=
  soundRegisters_of_notDecoded (clearWriteSet_residues ws s h) (outcomeField_statusWord _ _ _ _ _)

/-- DECODE that ended with an outcome, from what the invariant asks beside that outcome (R35, R39). -/
theorem decodeFinish_sound (o : DecodeEnd) (re : Reason) {s : State} (hres : s.ResiduesCanonical)
    (hsingle : o = .single → 1 ≤ s.pos1.toNat ∧ s.pos1.toNat ≤ 10 ∧ s.pos2 = 0 ∧ s.mag2 = 0)
    (hdouble : o = .double → 1 ≤ s.pos1.toNat ∧ s.pos1.toNat ≤ 10 ∧ 1 ≤ s.pos2.toNat ∧ s.pos2.toNat ≤ 10)
    (hdec : o ≠ .single → s.c.AllDecimal) : SoundRegisters (decodeFinish o re s) := by
  have hout : outcomeField (decodeFinish o re s).status = o.code := outcomeField_statusWord _ _ _ _ _
  refine ⟨hres, ⟨fun h => hsingle ?_, fun h => hdouble ?_⟩, fun _ h => hdec fun ho => h ?_⟩
  · exact DecodeEnd.code_inj _ _ (hout.symm.trans h)
  · exact DecodeEnd.code_inj _ _ (hout.symm.trans h)
  · rw [hout, ho]

/-- A residue that indexes a digit is a position (R167). -/
theorem position_of_digitAt (pos : Residue) (i : Fin 10) (h : digitAt pos = some i) :
    1 ≤ pos.toNat ∧ pos.toNat ≤ 10 := by
  have := (digitAt_eq_some_iff pos i).mp h
  omega

/-- Every end of DECODE on decimal digits leaves sound registers (R35, R39, R42). -/
theorem DecimalEnd.sound {s t : State} (h : DecimalEnd s t) (hy : Canonical s.y) (hdec : s.d.AllDecimal) :
    SoundRegisters t := by
  have hres := decodeLocated_residues s hy hdec
  have h0 : Canonical 0 := by decide
  cases h with
  | noError =>
    have hbase : s.decodeBase.ResiduesCanonical :=
      ⟨hy, syn_reg_canonical _ 0, syn_reg_canonical _ 1, syn_reg_canonical _ 2, syn_reg_canonical _ 3, h0, h0, h0,
        h0, h0, h0, h0, h0, h0, hdec.canonical⟩
    exact decodeFinish_sound _ _ hbase nofun nofun fun _ => hdec
  | uncorrected _ re _ disc root hdisc hroot =>
    exact decodeFinish_sound _ _ (hres.solved hdisc hroot h0 h0 h0 h0 hdec.canonical) nofun nofun fun _ => hdec
  | single hbranch pos i hpos hi =>
    obtain ⟨hpos1, hpos10⟩ := position_of_digitAt pos i hi
    exact decodeFinish_sound _ _
      (hres.solved h0 h0 hpos10 h0 (syn_reg_canonical _ 0) h0 (Digits.forall_get_set hdec.canonical (rsub_toNat_le _ _)))
      (fun _ => ⟨hpos1, hpos10, rfl, rfl⟩) nofun (absurd rfl)
  | double hbranch root hroot pos1 pos2 mag2 i1 i2 n1 n2 hpos1 hpos2 hi1 hi2 hmag2 hn1 hn2 hdec1 hdec2 =>
    obtain ⟨h1, h1'⟩ := position_of_digitAt pos1 i1 hi1
    obtain ⟨h2, h2'⟩ := position_of_digitAt pos2 i2 hi2
    have hroot10 : Canonical (BitVec.ofNat 4 root) := by rw [Canonical, root_reg_toNat s.d root hroot]; omega
    have hc : ((s.d.set i1 n1).set i2 n2).AllDecimal :=
      Digits.forall_get_set (Digits.forall_get_set hdec hdec1) hdec2
    exact decodeFinish_sound _ _
      (hres.solved (discOf_canonical s.d) hroot10 h1' h2' (rsub_toNat_le _ _) (rdiv_some _ _ _ hmag2).2.1 hc.canonical)
      nofun (fun _ => ⟨h1, h1', h2, h2'⟩) fun _ => hc

/-- Every command leaves sound registers. -/
theorem exec_sound (i : Instr) (s t : State) (hs : s.ResiduesCanonical) (h : exec i s = .next t) :
    SoundRegisters t := by
  cases i with
  | check =>
    obtain ⟨hpay, -, rfl⟩ | ⟨e, -, rfl⟩ := execCheck_cases s t h
    · have hdigit (x : Nibble) (hx : x ∈ payload s) : Canonical x :=
        ((checkDigits_eq_ok_iff _ ()).mp hpay x hx).trans (by decide)
      obtain ⟨hy, h0, h1, h2, h3, hp, hq, hr, hdisc, hroot, hpos1, hpos2, hmag1, hmag2, -⟩ := hs
      exact finishOk_sound _ ⟨hy, h0, h1, h2, h3, hp, hq, hr, hdisc, hroot, hpos1, hpos2, hmag1, hmag2,
        forall_get_codeword s hdigit fun k => mod11_toNat_le _⟩
    · exact raiseError_sound _ _ e hs
  | synd =>
    obtain ⟨-, rfl⟩ | ⟨e, -, rfl⟩ := execSynd_cases s t h
    · exact finishOk_sound _ (loadSyndrome_residues s hs)
    · exact raiseError_sound _ _ e hs
  | decode =>
    obtain ⟨hdec, hend⟩ | ⟨e, -, rfl⟩ := exec_decode_ends s t h
    · exact hend.sound hs.1 hdec
    · exact raiseError_sound _ _ e hs
  | _ =>
    obtain ⟨v, hv, rfl⟩ | ⟨e, -, rfl⟩ := exec_mau_cases _ s t rfl h
    · exact finishOk_sound _ ⟨mauResult_canonical _ _ _ v hv, hs.2⟩
    · exact raiseError_sound _ _ e hs

/-! ### The invariant -/

/-- Every CMD write ends in a state that meets the invariant, from every state whose result registers hold residues. -/
theorem executeCommand_inv (w : Word) (s t : State) (hs : s.ResiduesCanonical) (h : executeCommand w s = .next t) :
    t.Inv := by
  have hlegal := everyCommandWritesLegalStatus w s t h
  have herred : errField t.status ≠ 0 → t.erred = true := fun herr => by
    rw [(executeCommand_endsCommand w s t h).erred, bne_iff_ne.mpr herr, Bool.or_true]
  have hsound : SoundRegisters t := by
    obtain ⟨i, -, hi⟩ | ⟨_, -, rfl⟩ := executeCommand_cases w s t h
    · exact exec_sound i s t hs hi
    · exact raiseError_sound _ _ _ hs
  obtain ⟨hres, hpos, hout⟩ := hsound
  exact ⟨hres, .inr hlegal, hpos, hout, herred⟩

/-- Settles O17: each conjunct is read off the reset state. -/
theorem resetMeetsTheInvariant : Obligations.ResetMeetsTheInvariant := by
  unfold Obligations.ResetMeetsTheInvariant
  decide

/-- A store writes A, B or D, of which the invariant says nothing. -/
theorem storeReg_inv (reg : Reg) (w : Word) (s : State) (hs : s.Inv) : (storeReg reg w s).Inv := by
  cases reg <;> exact hs

/-- The registers of the reset state meet the invariant beside any ghost flag (R43). -/
theorem resetRegisters_inv (s : State) : (resetRegisters s).Inv := by
  obtain ⟨hres, hstatus, hpos, hout, -⟩ := resetMeetsTheInvariant
  exact ⟨hres, hstatus, hpos, hout, fun herr => absurd rfl herr⟩

/-- Settles O18: waiting and reads change no register, a store none of which the invariant speaks, and a CMD write and
reset establish it. -/
theorem stepKeepsTheInvariant : Obligations.StepKeepsTheInvariant := by
  intro s t hs h
  obtain ⟨-, rfl⟩ | ⟨e, rest, -, hd⟩ := step_cases s t h
  · exact hs
  · obtain ⟨_, rfl⟩ | ⟨reg, w, rfl⟩ | ⟨w, hw⟩ | rfl := deliver_effects e _ t hd
    · exact hs
    · exact storeReg_inv reg w _ hs
    · exact executeCommand_inv w { s with pending := rest } t hs.1 hw
    · exact resetRegisters_inv _

end Sys2Proof.Machine
end

section
/-! What a command depends on (30_encoding section 4): its results follow from its operands, so no command reads STATUS
(R30) or what it writes (R67), and an undisturbed sequence of events runs as if alone (R226). -/

namespace Sys2Proof.Machine

/-! ### The results of a command -/

/-- What a command with write set `ws` has written, apart from the ghost flag: its registers and STATUS, on a state that
is 0 elsewhere. -/
def resultsOf (ws : WriteSet) (t : State) : State := takeWriteSet ws { t with erred := false } State.reset

/-- States with the same results, written over one state, differ in the ghost flag at most. -/
theorem takeWriteSet_of_results {ws : WriteSet} {t t' : State} (h : resultsOf ws t = resultsOf ws t') (s : State) :
    takeWriteSet ws t' s = takeWriteSet ws { t with erred := t'.erred } s := by
  have hover (u : State) (b : Bool) :
      takeWriteSet ws { u with erred := b } s = takeWriteSet ws { resultsOf ws u with erred := b } s := by
    cases ws <;> rfl
  calc takeWriteSet ws t' s
    _ = takeWriteSet ws { t' with erred := t'.erred } s := rfl
    _ = takeWriteSet ws { t with erred := t'.erred } s := by rw [hover t', ← h, ← hover t]

theorem status_of_results {ws : WriteSet} {t t' : State} (h : resultsOf ws t = resultsOf ws t') :
    t.status = t'.status := by
  have hstatus (u : State) : (resultsOf ws u).status = u.status := by cases ws <;> rfl
  rw [← hstatus t, h, hstatus t']

/-- An error leaves the same results in every state: zeros, and its STATUS (R203). -/
theorem resultsOf_raiseError (ws : WriteSet) (op : BitVec 4) (e : Raise) (s s' : State) :
    resultsOf ws (raiseError ws op e s) = resultsOf ws (raiseError ws op e s') := by
  cases ws <;> rfl

/-! ### The operands of a command -/

/-- Two states agree on the registers that a command reads (the read sets of 30_encoding section 4). -/
def SameOperands (i : Instr) (s s' : State) : Prop :=
  match i with
  | .new | .sqrt => s.a = s'.a
  | .add | .sub | .mul | .div | .pow | .eq => s.a = s'.a ∧ s.b = s'.b
  | .check => ∀ j : Fin 10, j < 6 → s.d.get j = s'.d.get j
  | .synd | .decode => s.d = s'.d

/-- States that agree on A, B and D agree on the operands of every command. -/
theorem sameOperands_of_inputs (i : Instr) {s s' : State} (ha : s.a = s'.a) (hb : s.b = s'.b) (hd : s.d = s'.d) :
    SameOperands i s s' := by
  cases i with
  | new | sqrt => exact ha
  | check => exact fun j _ => congrArg (Digits.get · j) hd
  | synd | decode => exact hd
  | _ => exact ⟨ha, hb⟩

/-- An MAU command's result follows from its operands. -/
theorem mauResult_congr (i : Instr) (s s' : State) (hws : writeSetOf i = .mau) (h : SameOperands i s s') :
    mauResult i s.a s.b = mauResult i s'.a s'.b := by
  cases i with
  | new | sqrt =>
    have ha : s.a = s'.a := h
    rw [mauResult, mauResult, ha]
  | check | synd | decode => cases hws
  | _ => rw [h.1, h.2]

theorem exec_mau_results (i : Instr) (s s' t t' : State) (hws : writeSetOf i = .mau) (hop : SameOperands i s s')
    (h : exec i s = .next t) (h' : exec i s' = .next t') : resultsOf .mau t = resultsOf .mau t' := by
  rw [exec_eq_mauEnd i s hws, mauResult_congr i s s' hws hop] at h
  rw [exec_eq_mauEnd i s' hws] at h'
  cases hr : mauResult i s'.a s'.b <;> rw [hr] at h h' <;> cases h <;> cases h' <;> rfl

/-- The payload is D[1..6]. -/
theorem payload_congr {s s' : State} (h : ∀ j : Fin 10, j < 6 → s.d.get j = s'.d.get j) : payload s = payload s' := by
  refine List.ext_getElem rfl fun j hj _ => ?_
  have hj6 : j < 6 := hj
  rw [payload_getElem s j hj6, payload_getElem s' j hj6]
  exact h _ (Fin.lt_def.mpr hj6)

/-- The codeword follows from the payload (R146). -/
theorem codeword_congr {s s' : State} (h : ∀ j : Fin 10, j < 6 → s.d.get j = s'.d.get j) :
    codeword s = codeword s' := by
  have hpay := payload_congr h
  apply Digits.ext_get
  intro i
  fin_cases i
  · exact h 0 (by decide)
  · exact h 1 (by decide)
  · exact h 2 (by decide)
  · exact h 3 (by decide)
  · exact h 4 (by decide)
  · exact h 5 (by decide)
  · exact congrArg (wsum (wChk 0)) hpay
  · exact congrArg (wsum (wChk 1)) hpay
  · exact congrArg (wsum (wChk 2)) hpay
  · exact congrArg (wsum (wChk 3)) hpay

theorem execCheck_results (s s' t t' : State) (hop : SameOperands .check s s') (h : exec .check s = .next t)
    (h' : exec .check s' = .next t') : resultsOf .check t = resultsOf .check t' := by
  rw [exec, execCheck, payload_congr hop, codeword_congr hop] at h
  rw [exec, execCheck] at h'
  generalize (do checkDigits (payload s'); checkUsable (checkValues (payload s')) : Except Raise Unit) = r at h h'
  cases r <;> cases h <;> cases h' <;> rfl

theorem execSynd_results (s s' t t' : State) (hop : SameOperands .synd s s') (h : exec .synd s = .next t)
    (h' : exec .synd s' = .next t') : resultsOf .synd t = resultsOf .synd t' := by
  have hword : receivedWord s = receivedWord s' := congrArg Digits.toList hop
  rw [exec, execSynd, loadSyndrome, hword] at h
  rw [exec, execSynd, loadSyndrome] at h'
  cases hr : checkDigits (receivedWord s') <;> rw [hr] at h h' <;> cases h <;> cases h' <;> rfl

/-! ### DECODE reads D alone -/

/-- The registers that DECODE works on, of `u`, in the state `f`. -/
def State.inFrame (f u : State) : State :=
  { f with
    s0 := u.s0, s1 := u.s1, s2 := u.s2, s3 := u.s3, p := u.p, q := u.q, r := u.r, disc := u.disc, root := u.root
    pos1 := u.pos1, pos2 := u.pos2, mag1 := u.mag1, mag2 := u.mag2, d := u.d, c := u.c }

theorem singleBranch_results (f u : State) :
    resultsOf .decode (singleBranch (f.inFrame u)) = resultsOf .decode (singleBranch u) := by
  rw [singleBranch, singleBranch]
  dsimp only [State.inFrame]
  cases rdiv u.s1 u.s0 with
  | none => rfl
  | some pos =>
    dsimp only
    cases digitAt pos <;> rfl

theorem correctTwo_results (pos1 pos2 : Residue) (i1 i2 : Fin 10) (f u : State) :
    resultsOf .decode (correctTwo pos1 pos2 i1 i2 (f.inFrame u)) =
      resultsOf .decode (correctTwo pos1 pos2 i1 i2 u) := by
  rw [correctTwo, correctTwo]
  dsimp only [State.inFrame]
  cases rdiv (rsub (rmul pos1 u.s0) u.s1) (rsub pos1 pos2) with
  | none => rfl
  | some mag2 =>
    dsimp only
    split <;> rfl

theorem locateTwo_results (root : Residue) (f u : State) :
    resultsOf .decode (locateTwo root (f.inFrame u)) = resultsOf .decode (locateTwo root u) := by
  rw [locateTwo, locateTwo]
  dsimp only [State.inFrame]
  cases rdiv (rsub root u.q) (rmul 2 u.p) with
  | none => rfl
  | some pos1 =>
    cases rdiv (rsub (rneg u.q) root) (rmul 2 u.p) with
    | none => rfl
    | some pos2 =>
      dsimp only
      cases digitAt pos1 with
      | none => rfl
      | some i1 =>
        cases digitAt pos2 with
        | none => rfl
        | some i2 => exact correctTwo_results pos1 pos2 i1 i2 f u

theorem doubleBranch_results (f u : State) :
    resultsOf .decode (doubleBranch (f.inFrame u)) = resultsOf .decode (doubleBranch u) := by
  rw [doubleBranch, doubleBranch]
  dsimp only [State.inFrame]
  cases rsqrt (rsub (rmul u.q u.q) (rmul 4 (rmul u.p u.r))) with
  | none => rfl
  | some root => exact locateTwo_results root f { u with disc := _, root := root }

theorem solve_results (f u : State) : resultsOf .decode (solve (f.inFrame u)) = resultsOf .decode (solve u) := by
  let w := loadCoefficients u
  by_cases hcoef : w.p = 0 ∧ w.q = 0 ∧ w.r = 0
  · have hsingle : solve u = singleBranch w := if_pos hcoef
    have hsingle' : solve (f.inFrame u) = singleBranch (f.inFrame w) := if_pos hcoef
    rw [hsingle, hsingle', singleBranch_results]
  · have hdouble : solve u = doubleBranch w := if_neg hcoef
    have hdouble' : solve (f.inFrame u) = doubleBranch (f.inFrame w) := if_neg hcoef
    rw [hdouble, hdouble', doubleBranch_results]

/-- What steps 2 to 5 write follows from the registers that step 1 has written, and D (R160). -/
theorem dispatchSyndrome_results (f u : State) :
    resultsOf .decode (dispatchSyndrome (f.inFrame u)) = resultsOf .decode (dispatchSyndrome u) := by
  by_cases hzero : u.s0 = 0 ∧ u.s1 = 0 ∧ u.s2 = 0 ∧ u.s3 = 0
  · have hend (v : State) (hv : v.s0 = 0 ∧ v.s1 = 0 ∧ v.s2 = 0 ∧ v.s3 = 0) :
        dispatchSyndrome v = decodeFinish .noError .noReason v := if_pos hv
    rw [hend u hzero, hend (f.inFrame u) hzero]
    rfl
  · have hsolve (v : State) (hv : ¬ (v.s0 = 0 ∧ v.s1 = 0 ∧ v.s2 = 0 ∧ v.s3 = 0)) :
        dispatchSyndrome v = solve v := if_neg hv
    rw [hsolve u hzero, hsolve (f.inFrame u) hzero]
    exact solve_results f u

theorem execDecode_results (s s' t t' : State) (hop : SameOperands .decode s s') (h : exec .decode s = .next t)
    (h' : exec .decode s' = .next t') : resultsOf .decode t = resultsOf .decode t' := by
  have hd : s.d = s'.d := hop
  have hword : receivedWord s = receivedWord s' := congrArg Digits.toList hd
  have hstart : decodeStart s = s.inFrame (decodeStart s') := by
    rw [decodeStart_eq, decodeStart_eq, State.decodeBase, hd]
    rfl
  rw [exec, execDecode, hword, hstart] at h
  rw [exec, execDecode] at h'
  cases hr : checkDigits (receivedWord s') <;> rw [hr] at h h' <;> cases h <;> cases h'
  · rfl
  · exact dispatchSyndrome_results s _

/-- A command's results follow from its operands (30_encoding section 4). -/
theorem exec_results (i : Instr) (s s' t t' : State) (hop : SameOperands i s s') (h : exec i s = .next t)
    (h' : exec i s' = .next t') : resultsOf (writeSetOf i) t = resultsOf (writeSetOf i) t' := by
  cases i with
  | check => exact execCheck_results s s' t t' hop h h'
  | synd => exact execSynd_results s s' t t' hop h h'
  | decode => exact execDecode_results s s' t t' hop h h'
  | _ => exact exec_mau_results _ s s' t t' rfl hop h h'

/-- Settles O55: the registers that each clause names are among the results of its command. -/
theorem commandsReadOnlyTheirOperands : Obligations.CommandsReadOnlyTheirOperands := by
  have hy (i : Instr) (s s' t t' : State) (hws : writeSetOf i = .mau) (hop : SameOperands i s s')
      (h : exec i s = .next t) (h' : exec i s' = .next t') : t.y = t'.y ∧ t.status = t'.status := by
    have hres {α : Type} (f : State → α) := congrArg f (exec_mau_results i s s' t t' hws hop h h')
    exact ⟨hres State.y, hres State.status⟩
  refine ⟨fun i s s' t t' hi ha => ?_, fun i s s' t t' hi ha hb => ?_, fun s s' t t' hop h h' => ?_,
    fun s s' t t' hop h h' => ?_, fun s s' t t' hop h h' => ?_⟩
  · simp only [List.mem_cons, List.not_mem_nil, or_false] at hi
    obtain rfl | rfl := hi <;> exact hy _ s s' t t' rfl ha
  · simp only [List.mem_cons, List.not_mem_nil, or_false] at hi
    obtain rfl | rfl | rfl | rfl | rfl | rfl := hi <;> exact hy _ s s' t t' rfl ⟨ha, hb⟩
  · have hres {α : Type} (f : State → α) := congrArg f (execCheck_results s s' t t' hop h h')
    exact ⟨hres State.c, hres State.status⟩
  · have hres {α : Type} (f : State → α) := congrArg f (execSynd_results s s' t t' hop h h')
    exact ⟨hres State.s0, hres State.s1, hres State.s2, hres State.s3, hres State.status⟩
  · have hres {α : Type} (f : State → α) := congrArg f (execDecode_results s s' t t' hop h h')
    exact ⟨hres State.s0, hres State.s1, hres State.s2, hres State.s3, hres State.p, hres State.q, hres State.r,
      hres State.disc, hres State.root, hres State.pos1, hres State.pos2, hres State.mag1, hres State.mag2,
      hres State.c, hres State.status⟩

/-! ### A CMD write depends on A, B and D alone -/

/-- Two CMD writes of one word, from states with the same A, B and D, write the same results over their states, and each
sets its ghost flag by the error they report (R203, R215). -/
theorem executeCommand_results (w : Word) (s s' t : State) (ha : s.a = s'.a) (hb : s.b = s'.b) (hd : s.d = s'.d)
    (h : executeCommand w s = .next t) :
    ∃ ws, WritesOnly ws s t ∧ executeCommand w s' =
      .next (takeWriteSet ws { t with erred := s'.erred || errField t.status != 0 } s') := by
  obtain ⟨t', ht'⟩ := executeCommand_completes w s'
  have hboth : ∃ ws, WritesOnly ws s t ∧ WritesOnly ws s' t' ∧ resultsOf ws t = resultsOf ws t' := by
    obtain ⟨i, hw, hi⟩ | ⟨e, hw, rfl⟩ := executeCommand_cases w s t h
    · have hi' : exec i s' = .next t' := (executeCommand_of_decode w i s' hw).symm.trans ht'
      exact ⟨writeSetOf i, (exec_keepsWriteSet i s t hi).writesOnly, (exec_keepsWriteSet i s' t' hi').writesOnly,
        exec_results i s s' t t' (sameOperands_of_inputs i ha hb hd) hi hi'⟩
    · rw [executeCommand, hw] at ht'
      cases ht'
      exact ⟨.nothing, (raiseError_keepsWriteSet _ _ _ s).writesOnly, (raiseError_keepsWriteSet _ _ _ s').writesOnly,
        resultsOf_raiseError _ _ _ s s'⟩
  obtain ⟨ws, hwrites, hwrites', hres⟩ := hboth
  have herred := (executeCommand_endsCommand w s' t' ht').erred
  rw [← status_of_results hres] at herred
  refine ⟨ws, hwrites, ht'.trans (congrArg _ ?_)⟩
  rw [← herred, ← takeWriteSet_of_results hres]
  exact hwrites'

/-- Settles O56: the state that a command leaves has its operands and already holds its results. -/
theorem repeatingACommandChangesNothing : Obligations.RepeatingACommandChangesNothing := by
  intro w s t h
  have hend := executeCommand_endsCommand w s t h
  obtain ⟨ws, -, ht⟩ := executeCommand_results w s t t hend.a.symm hend.b.symm hend.d.symm h
  have herred : (t.erred || errField t.status != 0) = t.erred := by
    rw [hend.erred, Bool.or_assoc, Bool.or_self]
  rw [ht, herred]
  cases ws <;> rfl

/-- A CMD write does the same beside another STATUS and other words read before it. -/
theorem executeCommand_with_status_returned (w : Word) (s t : State) (v : Word) (l : List Word)
    (h : executeCommand w s = .next t) :
    executeCommand w { s with status := v, returned := l } = .next { t with returned := l } := by
  obtain ⟨ws, hwrites, ht⟩ := executeCommand_results w s { s with status := v, returned := l } t rfl rfl rfl h
  have hover : takeWriteSet ws t { s with status := v, returned := l } =
      { takeWriteSet ws t s with returned := l } := by cases ws <;> rfl
  rw [ht, ← (executeCommand_endsCommand w s t h).erred]
  exact congrArg Host.Outcome.next (hover.trans (congrArg (fun u : State => { u with returned := l }) hwrites.symm))

/-- Settles O21: STATUS is no operand of a command, and every command writes it whole. -/
theorem noCommandReadsStatus : Obligations.NoCommandReadsStatus := by
  intro w s v
  obtain ⟨t, ht⟩ := executeCommand_completes w s
  have hkeep : { t with returned := s.returned } = t := by rw [← (executeCommand_endsCommand w s t ht).returned]
  rw [ht, ← hkeep]
  exact executeCommand_with_status_returned w s t v s.returned ht

/-! ### An undisturbed sequence -/

/-- A write transaction does not depend on the words read before it (log entry 2). -/
theorem busWrite_with_returned (idx : RegIndex) (w : Word) (s t : State) (l : List Word)
    (h : busWrite idx w s = .next t) : busWrite idx w { s with returned := l } = .next { t with returned := l } := by
  obtain ⟨hidx, hcmd⟩ | ⟨reg, hidx, hreg, hstore⟩ | ⟨hidx, hnone⟩ := busWrite_cases idx w s
  · rw [hidx, busWrite_cmd]
    exact executeCommand_with_status_returned w s t s.status l (hcmd.symm.trans h)
  · cases hstore.symm.trans h
    rw [hidx, busWrite, regAt_index]
    cases reg with
    | cmd => exact absurd rfl hreg
    | _ => rfl
  · cases hnone.symm.trans h
    rw [busWrite, (regAt_eq_none_iff idx).mpr hidx]

/-- What an event does does not depend on the words read before it, but for the word that it reads itself. -/
theorem deliver_with_returned (e : Event) (s t : State) (l : List Word) (h : deliver e s = .next t) :
    ∃ l', deliver e { s with returned := l } = .next { t with returned := l' } := by
  cases e with
  | read idx => cases h; exact ⟨_, rfl⟩
  | write idx w => exact ⟨l, busWrite_with_returned idx w s t l h⟩
  | platformRead addr width =>
    rw [deliver, platformRead] at h ⊢
    split at h
    · cases h; exact ⟨_, rfl⟩
    · cases h
  | platformWrite addr bytes =>
    rw [deliver, platformWrite] at h ⊢
    split at h
    · exact ⟨l, busWrite_with_returned _ _ s t l h⟩
    · cases h
  | reset => cases h; exact ⟨l, rfl⟩

/-- A step at an event put first delivers it on the state before (R60). -/
theorem step_deliverNext (e : Event) (s : State) : step (deliverNext e s) = deliver e s :=
  step_cons (deliverNext e s) e s.pending rfl

/-- An undisturbed run leaves what the host's own events alone leave, but for the words read (R226). -/
theorem runExclusive_own (me : Nat) (events : List (Nat × Event)) (s t : State) (l : List Word)
    (h : runExclusive me events s = .next t) :
    ∃ l', runExclusive me (events.filter fun e => e.1 == me) { s with returned := l } =
      .next { t with returned := l' } := by
  induction events generalizing s l with
  | nil => cases h; exact ⟨l, rfl⟩
  | cons x rest ih =>
    obtain ⟨host, e⟩ := x
    rw [runExclusive, step_deliverNext] at h
    split at h
    · cases h
    · next hown =>
      split at h
      · next u hu =>
        by_cases hme : host = me
        · obtain ⟨l', hl'⟩ := deliver_with_returned e s u l hu
          rw [List.filter_cons_of_pos (by simpa using hme), runExclusive, if_neg (by simp [hme]), step_deliverNext, hl']
          exact ih u l' h
        · have hdist : disturbs e = false := by simpa [hme] using hown
          rw [List.filter_cons_of_neg (by simpa using hme)]
          have hu' := deliver_of_not_disturbs e s u hdist hu
          rw [hu'] at h
          exact ih { s with returned := u.returned } l h
      · next hstop => exact absurd h (hstop t)

/-- Settles O14: registers show neither the words read nor the events to come, in which alone the two runs differ. -/
theorem undisturbedSequenceRunsAsIfAlone : Obligations.UndisturbedSequenceRunsAsIfAlone := by
  intro me events s t h
  obtain ⟨l, hl⟩ := runExclusive_own me events s t s.returned h
  exact ⟨_, hl, fun reg => by simp, rfl⟩

end Sys2Proof.Machine
end

section
/-! The field of eleven elements (R119): the residue functions as its operations, and the syndrome as a power sum over
it. -/

namespace Sys2Proof.Machine

/-! ### Residues as elements of the field -/

theorem fact_prime_eleven : Fact (Nat.Prime 11) := ⟨by norm_num⟩

/-- The field element of a residue; the canonical residues are all of them (R100). -/
def toField (x : Residue) : ZMod 11 := (x.toNat : ZMod 11)

/-- Integers are congruent modulo 11 exactly when they are one element of the field. -/
theorem emod_eleven_eq_iff (a b : Int) : a % 11 = b % 11 ↔ (a : ZMod 11) = b :=
  (ZMod.intCast_eq_intCast_iff a b 11).symm

/-- An integer and its residue are one element of the field. -/
@[simp] theorem intCast_emod_eleven (a : Int) : ((a % 11 : Int) : ZMod 11) = a := ZMod.intCast_mod a 11

/-- An integer of 0 to 10 is 0 exactly when its field element is. -/
theorem intCast_eq_zero_iff_of_lt {a : Int} (h0 : 0 ≤ a) (h11 : a < 11) : (a : ZMod 11) = 0 ↔ a = 0 := by
  rw [← Int.cast_zero, ← emod_eleven_eq_iff]
  omega

@[simp] theorem toField_mod11 (v : Int) : toField (mod11 v) = v := by
  rw [toField, ← Int.cast_natCast, mod11_toNat, intCast_emod_eleven]

@[simp] theorem toField_radd (a b : Residue) : toField (radd a b) = toField a + toField b := by
  rw [radd, toField_mod11]
  simp [toField]

@[simp] theorem toField_rsub (a b : Residue) : toField (rsub a b) = toField a - toField b := by
  rw [rsub, toField_mod11]
  simp [toField]

@[simp] theorem toField_rmul (a b : Residue) : toField (rmul a b) = toField a * toField b := by
  rw [rmul, toField_mod11]
  simp [toField]

@[simp] theorem toField_zero : toField 0#4 = 0 := rfl
@[simp] theorem toField_one : toField 1#4 = 1 := rfl

@[simp] theorem toField_rneg (a : Residue) : toField (rneg a) = -toField a := by
  simp [rneg]

/-- A number of 0 to 10 is the field element of its register. -/
theorem toField_ofNat (n : Nat) (h : n ≤ 10) : toField (BitVec.ofNat 4 n) = n := by
  rw [toField, ofNat_toNat_of_le n h]

/-- Canonical residues with one field element are the same. -/
theorem eq_of_toField_eq {x y : Residue} (hx : Canonical x) (hy : Canonical y) (h : toField x = toField y) : x = y := by
  apply BitVec.eq_of_toNat_eq
  have hmod := (ZMod.natCast_eq_natCast_iff' _ _ 11).mp h
  omega

theorem canonical_radd (a b : Residue) : Canonical (radd a b) := mod11_toNat_le _
theorem canonical_rsub (a b : Residue) : Canonical (rsub a b) := mod11_toNat_le _
theorem canonical_rmul (a b : Residue) : Canonical (rmul a b) := mod11_toNat_le _

/-- A canonical dividend has its quotient by a canonical divisor that is not 0 (R105). -/
theorem rdiv_exists (a b : Residue) (ha : Canonical a) (hb : Canonical b) (h0 : b ≠ 0) :
    ∃ q, rdiv a b = some q ∧ Canonical q ∧ rmul q b = a := by
  obtain ⟨q, hq⟩ := Option.ne_none_iff_exists'.mp ((rdiv_eq_none_iff a b ha hb).not.mpr h0)
  exact ⟨q, hq, (rdiv_some a b q hq).2⟩

/-- Settles O31: the laws of the ring are those of the integers modulo 11, read back from the field, and `rdiv` and
`rsqrt` answer what they are defined to look for. -/
theorem residuesFormAField : Obligations.ResiduesFormAField := by
  intro a b c ha hb hc
  have hone : Canonical 1 := by decide
  have hzero : Canonical 0 := by decide
  refine ⟨⟨canonical_radd a b, canonical_rmul a b⟩, ⟨?addComm, ?addAssoc⟩, ⟨?mulComm, ?mulAssoc⟩, ?distrib,
    ⟨?addZero, ?mulOne, ?addNeg, ?sub⟩, ?div, ⟨rdiv_zero a, ?zeroDiv⟩, fun x hx => (rsqrt_some a x hx).2.1⟩
  case addComm => exact eq_of_toField_eq (canonical_radd _ _) (canonical_radd _ _) (by simp [add_comm])
  case addAssoc => exact eq_of_toField_eq (canonical_radd _ _) (canonical_radd _ _) (by simp [add_assoc])
  case mulComm => exact eq_of_toField_eq (canonical_rmul _ _) (canonical_rmul _ _) (by simp [mul_comm])
  case mulAssoc => exact eq_of_toField_eq (canonical_rmul _ _) (canonical_rmul _ _) (by simp [mul_assoc])
  case distrib => exact eq_of_toField_eq (canonical_rmul _ _) (canonical_radd _ _) (by simp [mul_add])
  case addZero => exact eq_of_toField_eq (canonical_radd _ _) ha (by simp)
  case mulOne => exact eq_of_toField_eq (canonical_rmul _ _) ha (by simp)
  case addNeg => exact eq_of_toField_eq (canonical_radd _ _) hzero (by simp)
  case sub => exact eq_of_toField_eq (canonical_rsub _ _) (canonical_radd _ _) (by simp [sub_eq_add_neg])
  case div =>
    intro h0
    obtain ⟨q, hq, hqc, hqb⟩ := rdiv_exists a b ha hb h0
    obtain ⟨i, hi, hic, hib⟩ := rdiv_exists 1 b hone hb h0
    have hqF : toField q * toField b = toField a := by rw [← toField_rmul, hqb]
    have hiF : toField i * toField b = 1 := by rw [← toField_rmul, hib]; rfl
    refine ⟨q, i, hq, hi, eq_of_toField_eq hqc (canonical_rmul _ _) ?_, hqb, hib⟩
    rw [toField_rmul]
    linear_combination toField i * hqF - toField q * hiF
  case zeroDiv =>
    intro h0
    rw [rdiv_eq_some_iff 0 b 0 hb hzero h0]
    exact eq_of_toField_eq (canonical_rmul _ _) hzero (by simp)

/-! ### The syndrome over the field -/

/-- The field element of position i + 1 (R141). -/
def point (i : Fin 10) : ZMod 11 := ((i.val + 1 : Nat) : ZMod 11)

theorem point_injective : Function.Injective point := by decide

/-- Element k of a word's syndrome in the field: the power sum of its digits (R140, R141). -/
def fieldSyn (v : Digits) (k : Nat) : ZMod 11 := ∑ i, toField (v.get i) * point i ^ k

/-- The syndrome's element is the integer that `syn` gives. -/
theorem cast_syn (v : Digits) (k : Nat) : ((syn v k : Int) : ZMod 11) = fieldSyn v k := by
  rw [syn, syndromeOf, fieldSyn, Int.cast_natCast]
  simp only [ZMod.natCast_mod, Fin.sum_univ_succ]
  simp [toField, point, Digits.get]
  ring

/-- S0..S3 hold the syndrome's elements (R161). -/
theorem toField_syn_reg (v : Digits) (k : Nat) : toField (BitVec.ofInt 4 (syn v k)) = fieldSyn v k := by
  rw [toField, ← Int.cast_natCast, syn_reg_toNat, cast_syn]

theorem syn_eq_zero_iff (v : Digits) (k : Nat) : syn v k = 0 ↔ fieldSyn v k = 0 := by
  rw [← cast_syn, intCast_eq_zero_iff_of_lt (syn_nonneg v k) (syn_lt v k)]

theorem cast_coefP (v : Digits) :
    ((coefP v : Int) : ZMod 11) = fieldSyn v 1 ^ 2 - fieldSyn v 0 * fieldSyn v 2 := by
  simp [coefP, cast_syn]

theorem cast_coefQ (v : Digits) :
    ((coefQ v : Int) : ZMod 11) = fieldSyn v 0 * fieldSyn v 3 - fieldSyn v 1 * fieldSyn v 2 := by
  simp [coefQ, cast_syn]

theorem cast_coefR (v : Digits) :
    ((coefR v : Int) : ZMod 11) = fieldSyn v 2 ^ 2 - fieldSyn v 1 * fieldSyn v 3 := by
  simp [coefR, cast_syn]

theorem cast_discOf (v : Digits) : ((discOf v : Int) : ZMod 11) = (coefQ v : ZMod 11) ^ 2 - 4 * coefP v * coefR v := by
  simp [discOf]

/-- The words whose syndrome is zero over the field; the decimal ones are the codewords (R148). -/
abbrev ZeroSyndrome (v : Digits) : Prop := ∀ k < 4, fieldSyn v k = 0

theorem syndromeZero_iff (v : Digits) : SyndromeZero v ↔ ZeroSyndrome v := by
  simp only [SyndromeZero, syn_eq_zero_iff]
  constructor
  · rintro ⟨h0, h1, h2, h3⟩ k hk
    interval_cases k
    exacts [h0, h1, h2, h3]
  · exact fun h => ⟨h 0 (by decide), h 1 (by decide), h 2 (by decide), h 3 (by decide)⟩

theorem IsCodeword.zeroSyndrome {v : Digits} (h : IsCodeword v) : ZeroSyndrome v := by
  intro k hk
  rw [← syn_eq_zero_iff, syn, h.2 ⟨k, hk⟩, Nat.cast_zero]

/-! ### Altered digits -/

/-- What has been added to the digit at a position, in the field. -/
def errorAt (v w : Digits) (i : Fin 10) : ZMod 11 := toField (w.get i) - toField (v.get i)

/-- Between words of canonical digits there is an error exactly where they differ. -/
theorem errorAt_eq_zero_iff {v w : Digits} {i : Fin 10} (hv : Canonical (v.get i)) (hw : Canonical (w.get i)) :
    errorAt v w i = 0 ↔ v.get i = w.get i := by
  rw [errorAt, sub_eq_zero]
  exact ⟨fun h => (eq_of_toField_eq hw hv h).symm, fun h => by rw [h]⟩

/-- The syndrome is linear: the errors add their own power sum to it (R150). -/
theorem fieldSyn_eq_add (v w : Digits) (k : Nat) :
    fieldSyn w k = fieldSyn v k + ∑ i, errorAt v w i * point i ^ k := by
  rw [fieldSyn, fieldSyn, ← Finset.sum_add_distrib]
  exact Finset.sum_congr rfl fun i _ => by rw [errorAt]; ring

/-- One altered digit adds its weighted change (R150). -/
theorem fieldSyn_set (v : Digits) (i : Fin 10) (x : Nibble) (k : Nat) :
    fieldSyn (v.set i x) k = fieldSyn v k + (toField x - toField (v.get i)) * point i ^ k := by
  rw [fieldSyn_eq_add v, Finset.sum_eq_single i]
  · rw [errorAt, Digits.get_set_self]
  · intro j _ hj
    rw [errorAt, Digits.get_set_of_ne v i j x hj, sub_self, zero_mul]
  · exact fun h => absurd (Finset.mem_univ i) h

/-- One altered digit adds its weighted change, over the integers (R150). -/
theorem syn_set (v : Digits) (i : Fin 10) (x : Nibble) (k : Nat) :
    syn (v.set i x) k = (syn v k + ((x.toNat : Int) - (v.get i).toNat) * (i.val + 1) ^ k) % 11 := by
  have hmod : syn (v.set i x) k % 11 = (syn v k + ((x.toNat : Int) - (v.get i).toNat) * (i.val + 1) ^ k) % 11 := by
    rw [emod_eleven_eq_iff, cast_syn, fieldSyn_set]
    simp [cast_syn, toField, point]
  have h0 := syn_nonneg (v.set i x) k
  have h11 := syn_lt (v.set i x) k
  omega

/-- Settles O35: SYND of a decimal word leaves its syndrome, and one altered digit changes each element as `syn_set`
says. -/
theorem syndromeIsLinearInEachDigit : Obligations.SyndromeIsLinearInEachDigit := by
  intro s t t' i y hdec hy h h'
  have hdec' : (s.d.set i y).AllDecimal := Digits.forall_get_set hdec hy
  cases ((syndWritesTheSyndromeOrError.2 s).1 hdec).symm.trans h
  cases ((syndWritesTheSyndromeOrError.2 { s with d := s.d.set i y }).1 hdec').symm.trans h'
  have hreg (v : Digits) (k : Nat) : ((BitVec.ofNat 4 (syndromeOf k v)).toNat : Int) = syn v k := by
    rw [ofNat_toNat_of_le _ (Nat.le_of_lt_succ (syndromeOf_lt k v)), syn]
  intro e
  refine ⟨?_, ?_, ?_, ?_⟩ <;> rw [hreg, hreg, syn_set s.d i y]
  · rw [pow_zero, mul_one]
  · rw [pow_one]

end Sys2Proof.Machine
end

section
/-! Single-error and double-error ends of DECODE that the locator decides before it finds two positions
(R165, R167, R171, R173). -/

namespace Sys2Proof.Machine

/-- What the single-error branch says of the syndrome (R164). -/
theorem SingleErrorBranch.syndrome {v : Digits} (h : SingleErrorBranch v) :
    fieldSyn v 1 ^ 2 = fieldSyn v 0 * fieldSyn v 2 ∧ fieldSyn v 0 * fieldSyn v 3 = fieldSyn v 1 * fieldSyn v 2 ∧
      fieldSyn v 2 ^ 2 = fieldSyn v 1 * fieldSyn v 3 := by
  obtain ⟨-, hP, hQ, hR⟩ := h
  exact ⟨sub_eq_zero.mp (by rw [← cast_coefP, hP, Int.cast_zero]),
    sub_eq_zero.mp (by rw [← cast_coefQ, hQ, Int.cast_zero]), sub_eq_zero.mp (by rw [← cast_coefR, hR, Int.cast_zero])⟩

/-- Settles O39: P = 0 leaves S1 = 0, then R = 0 leaves S2 = 0, and the division of step 4a is by S0 = 0. -/
theorem singleBranchDivisionError : Obligations.SingleBranchDivisionError := by
  intro s hdec hbranch h0
  have := fact_prime_eleven
  obtain ⟨hP, -, hR⟩ := hbranch.syndrome
  have h1 : fieldSyn s.d 1 = 0 := by
    rwa [(syn_eq_zero_iff s.d 0).mp h0, zero_mul, sq_eq_zero_iff] at hP
  have h2 : fieldSyn s.d 2 = 0 := by
    rwa [h1, zero_mul, sq_eq_zero_iff] at hR
  rw [← syn_eq_zero_iff] at h1 h2
  refine ⟨?_, h1, h2, fun h3 => hbranch.1 ⟨h0, h1, h2, h3⟩⟩
  have hdiv : rdiv s.decodeLocated.s1 s.decodeLocated.s0 = none := by
    rw [decodeLocated_s0, h0]
    exact rdiv_zero _
  rw [exec, execDecode_single s hdec hbranch, singleBranch, hdiv]
  exact congrArg Host.Outcome.next (uncorrectable_eq _ _)

/-- Settles O40: S1 = 0 leaves S2 = 0 by P = 0 and S3 = 0 by Q = 0, and the quotient 0 of step 4a is no position. -/
theorem singleBranchPositionZero : Obligations.SingleBranchPositionZero := by
  intro s hdec hbranch h0 h1
  have := fact_prime_eleven
  obtain ⟨hP, hQ, -⟩ := hbranch.syndrome
  have h0' : fieldSyn s.d 0 ≠ 0 := (syn_eq_zero_iff s.d 0).not.mp h0
  rw [(syn_eq_zero_iff s.d 1).mp h1, zero_mul, mul_eq_zero] at hQ
  rw [(syn_eq_zero_iff s.d 1).mp h1, zero_pow two_ne_zero, zero_eq_mul] at hP
  refine ⟨?_, (syn_eq_zero_iff s.d 2).mpr (hP.resolve_left h0'), (syn_eq_zero_iff s.d 3).mpr (hQ.resolve_left h0')⟩
  have hdiv : rdiv s.decodeLocated.s1 s.decodeLocated.s0 = some (BitVec.ofNat 4 0) :=
    rdiv_syn_reg s.d 0 (by decide) h0 (by rw [h1]; simp)
  have hnone : digitAt (BitVec.ofNat 4 0) = none := by decide
  rw [exec, execDecode_single s hdec hbranch, singleBranch, hdiv]
  dsimp only
  rw [hnone]
  exact congrArg Host.Outcome.next (uncorrectable_eq _ _)

/-- Settles O43: the divisor 2·P of step 5b is 0. -/
theorem doubleBranchDivisionByZeroP : Obligations.DoubleBranchDivisionByZeroP := by
  intro s root hdec hbranch hroot hP
  have hden : rmul 2 (s.decodeRooted root).p = 0 := by
    rw [decodeRooted_p, hP]
    decide
  rw [decode_rooted s root hdec hbranch hroot, locateTwo]
  simp only [hden, rdiv_zero]
  exact congrArg Host.Outcome.next (uncorrectable_eq _ _)

/-- Settles O45: the divisor of step 5d, the difference of the two positions, is 0. -/
theorem doubleBranchEqualPositions : Obligations.DoubleBranchEqualPositions := by
  rintro s root x1 x2 hdec hbranch hroot hpos h0 rfl
  obtain ⟨i, rfl⟩ : ∃ i : Fin 10, x1 = i.val + 1 := ⟨⟨x1 - 1, by omega⟩, by dsimp only; omega⟩
  have hsame (pos : Residue) : rsub pos pos = 0 := by
    rw [rsub, sub_self]
    rfl
  rw [decode_rooted s root hdec hbranch hroot, locateTwo_positions s root i i hroot hpos, correctTwo, hsame, rdiv_zero]
  exact congrArg Host.Outcome.next (uncorrectable_eq _ _)

end Sys2Proof.Machine
end

section
/-! The code of 41_syndrome_accumulator: the words that CHECK writes (R148), and its distance of five (R182). -/

namespace Sys2Proof.Machine

/-! ### The words that CHECK writes -/

/-- The weights of W_CHK solve the four equations of the syndrome (R141, R142). -/
theorem syndromeOf_codeword (s : State) (k : Fin 4) : syndromeOf k (codeword s) = 0 := by
  fin_cases k <;>
    simp only [syndromeOf, codeword, wsum_wChk_toNat, checkValue, Digits.get] <;> omega

/-- CHECK finds its four check digits usable exactly when they are decimal (R146). -/
theorem checkUsable_checkValues_iff (s : State) (u : Unit) :
    checkUsable (checkValues (payload s)) = .ok u ↔ ∀ k, Decimal (wsum (wChk k) (payload s)) := by
  rw [← List.forall_mem_ofFn_iff, ← checkValues_eq_ofFn, ← firstTenOrMore_eq_none_iff 7, checkUsable]
  split <;> simp_all

/-- Settles O34: the payload passed the digit check and the check values were usable, so C is a codeword, and DECODE
meets a zero syndrome. -/
theorem checkedWordsAreCodewords : Obligations.CheckedWordsAreCodewords := by
  intro s t h herr
  obtain ⟨hpay, husable, rfl⟩ | ⟨e, he, rfl⟩ := execCheck_cases s t h
  · have hchk := (checkUsable_checkValues_iff s ()).mp husable
    have hcode : IsCodeword (codeword s) :=
      ⟨forall_get_codeword s ((checkDigits_eq_ok_iff _ ()).mp hpay) hchk, syndromeOf_codeword s⟩
    exact ⟨hcode, _, execDecode_codeword _ hcode, outcomeField_statusWord _ _ _ _ _, rfl⟩
  · obtain ⟨hcode, -⟩ := check_canRaise s e he
    rw [raiseError_status, errField_statusWord, Err.code_eq_zero_iff] at herr
    rw [herr] at hcode
    exact absurd hcode (by decide)

/-! ### The distance of the code -/

theorem positions_eq_finRange : positions = List.finRange 10 := by decide

/-- The distance of two words is the Hamming distance of their digits. -/
theorem distance_eq_hammingDist (v w : Digits) : distance v w = hammingDist v.get w.get := by
  have hfilter : (List.finRange 10).filter (fun i => v.get i != w.get i) =
      (List.finRange 10).filter fun i => v.get i ≠ w.get i := List.filter_congr fun i _ => decide_not.symm
  rw [distance, positions_eq_finRange, hfilter]
  rfl

/-- Errors at four positions at most with four power sums of 0 are no errors: the Vandermonde matrix of four positions is
invertible (R182). -/
theorem errors_eq_zero (e : Fin 10 → ZMod 11) (hcard : (Finset.univ.filter fun i => e i ≠ 0).card ≤ 4)
    (hsyn : ∀ k < 4, ∑ i, e i * point i ^ k = 0) : e = 0 := by
  have := fact_prime_eleven
  obtain ⟨T, hT, hT4⟩ := Finset.exists_superset_card_eq hcard (by simp)
  have hout (i : Fin 10) (hi : i ∉ T) : e i = 0 := by
    by_contra h0
    exact hi (hT (by simpa using h0))
  have hpow (k : Fin 4) : ∑ j, e (T.orderEmbOfFin hT4 j) * point (T.orderEmbOfFin hT4 j) ^ k.val = 0 := by
    calc ∑ j, e (T.orderEmbOfFin hT4 j) * point (T.orderEmbOfFin hT4 j) ^ k.val
      _ = ∑ i ∈ T, e i * point i ^ k.val := by
        conv_rhs => rw [← T.map_orderEmbOfFin_univ hT4, Finset.sum_map]
        rfl
      _ = ∑ i, e i * point i ^ k.val :=
        Finset.sum_subset (Finset.subset_univ T) fun i _ hi => by rw [hout i hi, zero_mul]
      _ = 0 := hsyn k k.isLt
  have hzero : (fun j => e (T.orderEmbOfFin hT4 j)) = 0 :=
    Matrix.eq_zero_of_forall_pow_sum_mul_pow_eq_zero (f := fun j => point (T.orderEmbOfFin hT4 j))
      (point_injective.comp (T.orderEmbOfFin hT4).injective) hpow
  funext i
  by_cases hi : i ∈ T
  · obtain ⟨j, rfl⟩ : i ∈ Set.range (T.orderEmbOfFin hT4) := by rwa [T.range_orderEmbOfFin hT4]
    exact congrFun hzero j
  · exact hout i hi

/-- Two words of canonical digits with zero syndromes that differ in four positions at most are the same word (R182). -/
theorem eq_of_distance_le_four {v w : Digits} (hv : ∀ i, Canonical (v.get i)) (hw : ∀ i, Canonical (w.get i))
    (hv0 : ZeroSyndrome v) (hw0 : ZeroSyndrome w) (hd : distance v w ≤ 4) : v = w := by
  have herr := errors_eq_zero (errorAt v w)
    (by simpa only [ne_eq, errorAt_eq_zero_iff (hv _) (hw _), distance_eq_hammingDist, hammingDist] using hd)
    (fun k hk => by simpa [hv0 k hk, hw0 k hk] using (fieldSyn_eq_add v w k).symm)
  exact Digits.ext_get v w fun i => (errorAt_eq_zero_iff (hv i) (hw i)).mp (congrFun herr i)

theorem distance_self (v : Digits) : distance v v = 0 := by
  rw [distance_eq_hammingDist, hammingDist_self]

/-- Altering one digit moves a word by one at most. -/
theorem distance_set_le (v w : Digits) (i : Fin 10) (x : Nibble) :
    distance v (w.set i x) ≤ distance v w + 1 ∧ distance v w ≤ distance v (w.set i x) + 1 := by
  have hone : hammingDist w.get (w.set i x).get ≤ 1 := by
    refine Finset.card_le_one.mpr fun j hj l hl => ?_
    have honly (j : Fin 10) (hj : w.get j ≠ (w.set i x).get j) : j = i := by
      by_contra hne
      exact hj (Digits.get_set_of_ne w i j x hne).symm
    rw [honly j (by simpa using hj), honly l (by simpa using hl)]
  simp only [distance_eq_hammingDist]
  have h1 := hammingDist_triangle v.get w.get (w.set i x).get
  have h2 := hammingDist_triangle v.get (w.set i x).get w.get
  rw [hammingDist_comm (w.set i x).get] at h2
  omega

/-- Only a zero syndrome ends NO_ERROR (R162). -/
theorem DecimalEnd.noError_iff {s t : State} (h : DecimalEnd s t) :
    outcomeField t.status = DecodeEnd.noError.code ↔ SyndromeZero s.d := by
  have hout (o : DecodeEnd) (re : Reason) (u : State) :
      outcomeField (decodeFinish o re u).status = o.code := outcomeField_statusWord _ _ _ _ _
  cases h with
  | noError hzero => exact iff_of_true (hout _ _ _) hzero
  | uncorrected hne => exact iff_of_false (by rw [uncorrectable, hout]; decide) hne
  | single hbranch => exact iff_of_false (by rw [hout]; decide) hbranch.1
  | double hbranch => exact iff_of_false (by rw [hout]; decide) hbranch.1

/-- DECODE of decimal digits ends with ERR = OK (R160). -/
theorem DecimalEnd.errField {s t : State} (h : DecimalEnd s t) : errField t.status = Err.ok.code := by
  cases h <;> exact errField_statusWord _ _ _ _ _

/-- DECODE that ends with an outcome met ten decimal digits (R161). -/
theorem decimal_of_outcome (s t : State) (h : exec .decode s = .next t)
    (hout : outcomeField t.status ≠ DecodeEnd.notDecoded.code) : s.d.AllDecimal ∧ DecimalEnd s t := by
  obtain hdec | ⟨e, -, rfl⟩ := exec_decode_ends s t h
  · exact hdec
  · exact absurd (outcomeField_statusWord _ _ _ _ _) hout

/-- DECODE ends NO_ERROR on codewords alone (R148, R162). -/
theorem zeroSyndrome_of_noError (s t : State) (h : exec .decode s = .next t)
    (hout : outcomeField t.status = DecodeEnd.noError.code) : s.d.AllDecimal ∧ ZeroSyndrome s.d := by
  obtain ⟨hdec, hend⟩ := decimal_of_outcome s t h (by rw [hout]; decide)
  exact ⟨hdec, (syndromeZero_iff s.d).mp (hend.noError_iff.mp hout)⟩

/-- Settles O52: a decimal word that ends NO_ERROR within four digits of a codeword is that codeword. -/
theorem codewordsDifferInFivePositions : Obligations.CodewordsDifferInFivePositions := by
  refine ⟨fun s v hv hdec h1 h4 => ?_, fun s s' t t' h h' hout hout' hne => ?_⟩
  · obtain ⟨t, ht⟩ := exec_completes .decode s
    have hend := exec_decode_decimalEnd s t hdec ht
    refine ⟨t, ht, hend.errField, fun hout => ?_⟩
    have hzero := (syndromeZero_iff s.d).mp (hend.noError_iff.mp hout)
    have heq := eq_of_distance_le_four hv.1.canonical hdec.canonical hv.zeroSyndrome hzero h4
    rw [heq, distance_self] at h1
    omega
  · obtain ⟨hdec, hzero⟩ := zeroSyndrome_of_noError s t h hout
    obtain ⟨hdec', hzero'⟩ := zeroSyndrome_of_noError s' t' h' hout'
    by_contra hlt
    exact hne (eq_of_distance_le_four hdec.canonical hdec'.canonical hzero hzero' (by omega))

end Sys2Proof.Machine
end

section
/-! What DECODE corrects (42_error_locator_solver section 4): the corrected word has a zero syndrome (R181), and one or two
altered digits of a codeword are found (R179, R180), where more are never taken for one (R182). -/

namespace Sys2Proof.Machine

/-! ### The algebra of the locator -/

section
variable {F : Type} [Field F] {S0 S1 S2 S3 : F}

/-- In the single-error branch the syndrome is a geometric sequence with the position as its ratio (R164, R165). -/
theorem syndrome_of_one_error {x : F} (h0 : S0 ≠ 0) (hx : x * S0 = S1) (hP : S1 ^ 2 = S0 * S2)
    (hQ : S0 * S3 = S1 * S2) : S2 = S0 * x ^ 2 ∧ S3 = S0 * x ^ 3 := by
  have h2 : S2 = S0 * x ^ 2 := mul_left_cancel₀ h0 (by rw [← hP, ← hx]; ring)
  exact ⟨h2, mul_left_cancel₀ h0 (by rw [hQ, h2, ← hx]; ring)⟩

section
variable {P Q R : F} (hP : P = S1 ^ 2 - S0 * S2) (hQ : Q = S0 * S3 - S1 * S2) (hR : R = S2 ^ 2 - S1 * S3)

/-- The quotients of step 5b are roots of P·x² + Q·x + R (R171). -/
theorem locator_root {root x : F} (h2P : 2 * P ≠ 0) (h2 : (2 : F) ≠ 0) (hroot : root ^ 2 = Q ^ 2 - 4 * P * R)
    (hx : (x * (2 * P) + Q) ^ 2 = root ^ 2) : P * x ^ 2 + Q * x + R = 0 := by
  have h4P : 2 * (2 * P) ≠ 0 := mul_ne_zero h2 h2P
  refine (mul_eq_zero.mp ?_).resolve_left h4P
  linear_combination hx + hroot

include hP hQ hR

/-- The magnitudes of step 5d at the two roots give back the whole syndrome (R173): S2 and S3 follow from S0 and S1 by the
recurrence P·S_{k+2} + Q·S_{k+1} + R·S_k = 0. -/
theorem syndrome_of_two_errors {root x1 x2 m : F} (h2P : 2 * P ≠ 0) (h2 : (2 : F) ≠ 0)
    (hroot : root ^ 2 = Q ^ 2 - 4 * P * R) (hx1 : x1 * (2 * P) = root - Q) (hx2 : x2 * (2 * P) = -Q - root)
    (hm : m * (x1 - x2) = x1 * S0 - S1) :
    S1 = (S0 - m) * x1 + m * x2 ∧ S2 = (S0 - m) * x1 ^ 2 + m * x2 ^ 2 ∧ S3 = (S0 - m) * x1 ^ 3 + m * x2 ^ 3 := by
  have hP0 : P ≠ 0 := right_ne_zero_of_mul h2P
  have hr1 := locator_root h2P h2 hroot (x := x1) (by rw [hx1]; ring)
  have hr2 := locator_root h2P h2 hroot (x := x2) (by rw [hx2]; ring)
  have hrec2 : P * S2 + Q * S1 + R * S0 = 0 := by rw [hP, hQ, hR]; ring
  have hrec3 : P * S3 + Q * S2 + R * S1 = 0 := by rw [hP, hQ, hR]; ring
  have h1 : S1 = (S0 - m) * x1 + m * x2 := by linear_combination hm
  have h2 : S2 = (S0 - m) * x1 ^ 2 + m * x2 ^ 2 := by
    apply mul_left_cancel₀ hP0
    linear_combination hrec2 - (S0 - m) * hr1 - m * hr2 - Q * h1
  refine ⟨h1, h2, mul_left_cancel₀ hP0 ?_⟩
  linear_combination hrec3 - (S0 - m) * x1 * hr1 - m * x2 * hr2 - Q * h2 - R * h1

end

end

/-! ### The corrected words -/

theorem two_ne_zero_field : (2 : ZMod 11) ≠ 0 := by decide

theorem toField_eq_zero_iff {x : Residue} (hx : Canonical x) : toField x = 0 ↔ x = 0 :=
  ⟨fun h => eq_of_toField_eq hx (by decide) (h.trans toField_zero.symm), fun h => h ▸ toField_zero⟩

/-- A residue that indexes digit i is the field element of its position. -/
theorem toField_of_digitAt {pos : Residue} {i : Fin 10} (h : digitAt pos = some i) : toField pos = point i := by
  rw [toField, (digitAt_eq_some_iff pos i).mp h, point]

/-- A quotient solves its equation in the field (R105). -/
theorem toField_of_rdiv {a b k : Residue} (h : rdiv a b = some k) : toField k * toField b = toField a := by
  rw [← toField_rmul, (rdiv_some a b k h).2.2]

theorem toField_coefP_reg (v : Digits) : toField (BitVec.ofInt 4 (coefP v)) = (coefP v : ZMod 11) := by
  rw [toField, ← Int.cast_natCast, coefP_reg_toNat]

theorem toField_coefQ_reg (v : Digits) : toField (BitVec.ofInt 4 (coefQ v)) = (coefQ v : ZMod 11) := by
  rw [toField, ← Int.cast_natCast, coefQ_reg_toNat]

/-- The word that step 4d writes has a zero syndrome (R169). -/
theorem zeroSyndrome_of_single {s : State} {pos : Residue} {i : Fin 10} (hbranch : SingleErrorBranch s.d)
    (hpos : rdiv s.decodeLocated.s1 s.decodeLocated.s0 = some pos) (hi : digitAt pos = some i) :
    ZeroSyndrome (s.d.set i (rsub (s.d.get i) s.decodeLocated.s0)) := by
  have := fact_prime_eleven
  obtain ⟨hP, hQ, -⟩ := hbranch.syndrome
  have h0 : fieldSyn s.d 0 ≠ 0 := by
    rw [← toField_syn_reg, ne_eq, toField_eq_zero_iff (syn_reg_canonical s.d 0)]
    exact (rdiv_some _ _ _ hpos).1
  have h1 := toField_of_rdiv hpos
  rw [decodeLocated_s0, decodeLocated_s1, toField_syn_reg, toField_syn_reg, toField_of_digitAt hi] at h1
  obtain ⟨h2, h3⟩ := syndrome_of_one_error h0 h1 hP hQ
  intro k hk
  rw [fieldSyn_set, toField_rsub, decodeLocated_s0, toField_syn_reg]
  interval_cases k
  · ring
  · linear_combination -h1
  · linear_combination h2
  · linear_combination h3

/-- The digits of step 5e are the old ones without their magnitudes (R174). -/
theorem toField_correctedDigit (x m : Nibble) :
    toField (mod11 ((x.toNat : Int) + (11 - (m.toNat : Int)))) = toField x - toField m := by
  have h11 : (11 : ZMod 11) = 0 := rfl
  rw [toField_mod11]
  simp [toField, h11, sub_eq_add_neg]

/-- The word that step 5g writes has a zero syndrome (R176). -/
theorem zeroSyndrome_of_double {s : State} {root : Nat} (hroot : SmallerRoot s.d root) {pos1 pos2 mag2 : Residue}
    {i1 i2 : Fin 10}
    (hpos1 : rdiv (rsub (BitVec.ofNat 4 root) s.decodeLocated.q) (rmul 2 s.decodeLocated.p) = some pos1)
    (hpos2 : rdiv (rsub (rneg s.decodeLocated.q) (BitVec.ofNat 4 root)) (rmul 2 s.decodeLocated.p) = some pos2)
    (hi1 : digitAt pos1 = some i1) (hi2 : digitAt pos2 = some i2)
    (hmag2 : rdiv (rsub (rmul pos1 s.decodeLocated.s0) s.decodeLocated.s1) (rsub pos1 pos2) = some mag2) :
    ZeroSyndrome ((s.d.set i1 (mod11 ((s.d.get i1).toNat + (11 - (rsub s.decodeLocated.s0 mag2).toNat)))).set i2
      (mod11 ((s.d.get i2).toNat + (11 - mag2.toNat)))) := by
  have := fact_prime_eleven
  have hne : i2 ≠ i1 := by
    rintro rfl
    have heq : pos1 = pos2 := BitVec.eq_of_toNat_eq
      (((digitAt_eq_some_iff pos1 i2).mp hi1).trans ((digitAt_eq_some_iff pos2 i2).mp hi2).symm)
    refine (rdiv_some _ _ _ hmag2).1 (eq_of_toField_eq (canonical_rsub _ _) (by decide) ?_)
    rw [heq, toField_rsub, sub_self]
    rfl
  have htwo : toField 2 = 2 := rfl
  have h2P : 2 * (coefP s.d : ZMod 11) ≠ 0 := by
    rw [← toField_coefP_reg, ← htwo, ← toField_rmul, ne_eq, toField_eq_zero_iff (canonical_rmul _ _)]
    exact (rdiv_some _ _ _ hpos1).1
  have hr : (root : ZMod 11) ^ 2 = (coefQ s.d : ZMod 11) ^ 2 - 4 * coefP s.d * coefR s.d := by
    rw [← cast_discOf, ← hroot.2]
    simp
  have hx1 := toField_of_rdiv hpos1
  have hx2 := toField_of_rdiv hpos2
  have hm := toField_of_rdiv hmag2
  simp only [toField_rmul, toField_rsub, toField_rneg, decodeLocated_p, decodeLocated_q, decodeLocated_s0,
    decodeLocated_s1, toField_coefP_reg, toField_coefQ_reg, toField_syn_reg, toField_ofNat root (hroot.1.trans (by decide)),
    toField_of_digitAt hi1, toField_of_digitAt hi2, htwo] at hx1 hx2 hm
  obtain ⟨h1, h2, h3⟩ := syndrome_of_two_errors (cast_coefP s.d) (cast_coefQ s.d) (cast_coefR s.d) h2P two_ne_zero_field
    hr hx1 hx2 hm
  intro k hk
  rw [fieldSyn_set, fieldSyn_set, Digits.get_set_of_ne _ _ _ _ hne, toField_correctedDigit, toField_correctedDigit,
    toField_rsub, decodeLocated_s0, toField_syn_reg]
  interval_cases k
  · ring
  · linear_combination h1
  · linear_combination h2
  · linear_combination h3

/-- Every word that DECODE corrects has a zero syndrome, and a correction of two digits leaves decimal digits alone
(R169, R176). -/
theorem DecimalEnd.corrected {s t : State} (h : DecimalEnd s t) (hdec : s.d.AllDecimal) :
    (outcomeField t.status = DecodeEnd.single.code → ZeroSyndrome t.c ∧ (∀ i, Canonical (t.c.get i)) ∧
      ∃ i x, t.c = s.d.set i x) ∧
    (outcomeField t.status = DecodeEnd.double.code → ZeroSyndrome t.c ∧ t.c.AllDecimal) := by
  have hout (o : DecodeEnd) (re : Reason) (u : State) :
      outcomeField (decodeFinish o re u).status = o.code := outcomeField_statusWord _ _ _ _ _
  cases h with
  | noError =>
    rw [hout]
    exact ⟨fun h => absurd h (by decide), fun h => absurd h (by decide)⟩
  | uncorrected =>
    rw [uncorrectable, hout]
    exact ⟨fun h => absurd h (by decide), fun h => absurd h (by decide)⟩
  | single hbranch pos i hpos hi =>
    rw [hout]
    exact ⟨fun _ => ⟨zeroSyndrome_of_single hbranch hpos hi,
      Digits.forall_get_set hdec.canonical (canonical_rsub _ _), i, _, rfl⟩, fun h => absurd h (by decide)⟩
  | double hbranch root hroot pos1 pos2 mag2 i1 i2 n1 n2 hpos1 hpos2 hi1 hi2 hmag2 hn1 hn2 hdec1 hdec2 =>
    rw [hout]
    refine ⟨fun h => absurd h (by decide), fun _ => ⟨?_, Digits.forall_get_set (Digits.forall_get_set hdec hdec1) hdec2⟩⟩
    rw [hn1, hn2]
    exact zeroSyndrome_of_double hroot hpos1 hpos2 hi1 hi2 hmag2

/-- Settles O51: the corrected word has a zero syndrome, so it ends NO_ERROR where its digits are decimal. -/
theorem redecodingACorrectedWord : Obligations.RedecodingACorrectedWord := by
  intro s t u h hout hu
  obtain ⟨hdec, hend⟩ := decimal_of_outcome s t h (by rcases hout with hout | hout <;> rw [hout] <;> decide)
  obtain ⟨hsingle, hdouble⟩ := hend.corrected hdec
  have hzero : ZeroSyndrome t.c := hout.elim (fun hout => (hsingle hout).1) fun hout => (hdouble hout).1
  refine ⟨fun hc => ?_, fun hc => ⟨hout.resolve_right fun hout => hc (hdouble hout).2, ?_⟩⟩
  · exact (exec_decode_decimalEnd _ u hc hu).noError_iff.mpr ((syndromeZero_iff t.c).mpr hzero)
  · obtain ⟨hdec', -⟩ | ⟨e, he, rfl⟩ := exec_decode_ends _ u hu
    · exact absurd hdec' hc
    · rw [raiseError_status, errField_statusWord, (checkDigits_error _ e he).1]

/-- Settles O53: a word corrected at one digit would be a word of zero syndrome within four digits of the codeword, so the
codeword itself, and then one digit alone was altered. -/
theorem twoOrThreeAlteredDigitsNeverSingle : Obligations.TwoOrThreeAlteredDigitsNeverSingle := by
  intro s t v hv hdec h2 h3 h
  have hend := exec_decode_decimalEnd s t hdec h
  refine ⟨fun hout => ?_, fun hout => ?_⟩
  · obtain ⟨hzero, hcanon, i, x, hc⟩ := (hend.corrected hdec).1 hout
    obtain ⟨hup, hdown⟩ := distance_set_le v s.d i x
    rw [← hc] at hup hdown
    rw [← eq_of_distance_le_four hv.1.canonical hcanon hv.zeroSyndrome hzero (by omega), distance_self] at hdown
    omega
  · have hzero := (syndromeZero_iff s.d).mp (hend.noError_iff.mp hout)
    rw [← eq_of_distance_le_four hv.1.canonical hdec.canonical hv.zeroSyndrome hzero (by omega), distance_self] at h2
    omega

end Sys2Proof.Machine
end

section
/-! One and two altered digits of a codeword, and what DECODE finds of them (R179, R180). -/

namespace Sys2Proof.Machine

/-! ### One altered digit -/

theorem Digits.set_set_self (v : Digits) (i : Fin 10) (x y : Nibble) : (v.set i x).set i y = v.set i y := by
  fin_cases i <;> rfl

/-- The coefficients and the discriminant are 0 exactly when their field elements are. -/
theorem coefP_eq_zero_iff (v : Digits) : coefP v = 0 ↔ (coefP v : ZMod 11) = 0 :=
  (intCast_eq_zero_iff_of_lt (coefP_nonneg v) (coefP_lt v)).symm
theorem coefQ_eq_zero_iff (v : Digits) : coefQ v = 0 ↔ (coefQ v : ZMod 11) = 0 :=
  (intCast_eq_zero_iff_of_lt (coefQ_nonneg v) (coefQ_lt v)).symm
theorem coefR_eq_zero_iff (v : Digits) : coefR v = 0 ↔ (coefR v : ZMod 11) = 0 :=
  (intCast_eq_zero_iff_of_lt (coefR_nonneg v) (coefR_lt v)).symm

/-- The syndrome of a codeword with one altered digit is that digit's weighted change (R150). -/
theorem syn_set_codeword (v : Digits) (i : Fin 10) (x : Nibble) (hv : IsCodeword v) (k : Fin 4) :
    syn (v.set i x) k = (((x.toNat : Int) - (v.get i).toNat) * (i.val + 1) ^ k.val) % 11 := by
  rw [syn_set, (syn_eq_zero_iff v k).mpr (hv.zeroSyndrome k k.isLt), zero_add]

/-- One altered digit takes the single-error branch, with S0 other than 0 (R164). -/
theorem singleErrorBranch_of_set (v : Digits) (i : Fin 10) (x : Nibble) (hv : IsCodeword v) (hx : Decimal x)
    (hne : x ≠ v.get i) : SingleErrorBranch (v.set i x) ∧ syn (v.set i x) 0 ≠ 0 := by
  have h0 : syn (v.set i x) 0 ≠ 0 := by
    have hval : x.toNat ≠ (v.get i).toNat := fun h => hne (BitVec.eq_of_toNat_eq h)
    have hvi := hv.1 i
    have hsyn := syn_set_codeword v i x hv 0
    rw [Fin.val_zero, pow_zero, mul_one] at hsyn
    omega
  have hS (k : Nat) (hk : k < 4) :
      fieldSyn (v.set i x) k = (toField x - toField (v.get i)) * point i ^ k := by
    rw [fieldSyn_set, hv.zeroSyndrome k hk, zero_add]
  refine ⟨⟨fun hzero => h0 hzero.1, ?_, ?_, ?_⟩, h0⟩
  · rw [coefP_eq_zero_iff, cast_coefP, hS 0 (by decide), hS 1 (by decide), hS 2 (by decide)]
    ring
  · rw [coefQ_eq_zero_iff, cast_coefQ, hS 0 (by decide), hS 1 (by decide), hS 2 (by decide), hS 3 (by decide)]
    ring
  · rw [coefR_eq_zero_iff, cast_coefR, hS 1 (by decide), hS 2 (by decide), hS 3 (by decide)]
    ring

/-- Settles O49: S0 is the change of the altered digit and S1 / S0 its position, so step 4d takes the change back. -/
theorem oneAlteredDigitDecodes : Obligations.OneAlteredDigitDecodes := by
  intro s v i x hv hx hne hd
  have hdec : s.d.AllDecimal := hd ▸ Digits.forall_get_set hv.1 hx
  have hvi := hv.1 i
  obtain ⟨hbranch, h0⟩ := singleErrorBranch_of_set v i x hv hx hne
  have hS0 := syn_set_codeword v i x hv 0
  have hS1 := syn_set_codeword v i x hv 1
  rw [← hd] at hbranch h0 hS0 hS1
  rw [Fin.val_zero, pow_zero, mul_one] at hS0
  rw [Fin.val_one, pow_one] at hS1
  have hpos : ((i.val + 1 : Int) * syn s.d 0) % 11 = syn s.d 1 := by
    rw [hS0, hS1, Int.mul_comm, emod_mul_emod_eleven]
  have hback : (((s.d.get i).toNat : Int) - syn s.d 0) % 11 = (v.get i).toNat := by
    rw [hS0, hd, Digits.get_set_self]
    omega
  refine ⟨_, singleBranchCorrectsOneDigit s i hdec hbranch h0 hpos, by dsimp only; decide, ?_,
    ofNat_toNat_of_le _ (by omega), (syn_reg_toNat s.d 0).trans hS0⟩
  dsimp only
  rw [hback, ofInt_of_toNat, hd, Digits.set_set_self, Digits.set_get_self]

/-! ### Two altered digits -/

/-- The change of the digit at position i + 1, as a number of 0 to 10: its magnitude (R39). -/
def magnitude (v w : Digits) (i : Fin 10) : Nat := ((((w.get i).toNat : Int) - (v.get i).toNat) % 11).toNat

theorem magnitude_le (v w : Digits) (i : Fin 10) : magnitude v w i ≤ 10 := by
  rw [magnitude]
  omega

/-- The magnitude at a position is the error there (R173). -/
theorem cast_magnitude (v w : Digits) (i : Fin 10) : (magnitude v w i : ZMod 11) = errorAt v w i := by
  rw [magnitude, ← Int.cast_natCast, Int.toNat_of_nonneg (Int.emod_nonneg _ (by decide)), intCast_emod_eleven, errorAt]
  simp [toField]

/-- Taking the magnitude away gives back a decimal digit (R174). -/
theorem correctedDigit_magnitude (v w : Digits) (i : Fin 10) (hv : Decimal (v.get i)) :
    correctedDigit w i (magnitude v w i) = (v.get i).toNat := by
  rw [correctedDigit, magnitude]
  omega

/-- Every element of the field or its negative is one of 0 to 5 (R106). -/
theorem exists_small_or_neg (z : ZMod 11) : ∃ r : Fin 6, (r.val : ZMod 11) = z ∨ (r.val : ZMod 11) = -z := by
  revert z
  decide

section
variable {v w : Digits} {i j : Fin 10} (hv : ZeroSyndrome v) (hij : i ≠ j)
  (hsame : ∀ l, l ≠ i → l ≠ j → w.get l = v.get l)
include hv hij hsame

/-- The syndrome of a word with two altered digits is the sum of their power sums (R150). -/
theorem fieldSyn_of_two_errors (k : Nat) (hk : k < 4) :
    fieldSyn w k = errorAt v w i * point i ^ k + errorAt v w j * point j ^ k := by
  rw [fieldSyn_eq_add v w, hv k hk, zero_add]
  refine Fintype.sum_eq_add i j hij fun l ⟨hi, hj⟩ => ?_
  rw [errorAt, hsame l hi hj, sub_self, zero_mul]

/-- P of a word with two altered digits (R163). -/
theorem cast_coefP_of_two_errors :
    ((coefP w : Int) : ZMod 11) = -(errorAt v w i * errorAt v w j * (point j - point i) ^ 2) := by
  have hS := fieldSyn_of_two_errors hv hij hsame
  rw [cast_coefP, hS 0 (by decide), hS 1 (by decide), hS 2 (by decide)]
  ring

/-- Q of a word with two altered digits (R163). -/
theorem cast_coefQ_of_two_errors :
    ((coefQ w : Int) : ZMod 11) =
      errorAt v w i * errorAt v w j * (point j - point i) ^ 2 * (point i + point j) := by
  have hS := fieldSyn_of_two_errors hv hij hsame
  rw [cast_coefQ, hS 0 (by decide), hS 1 (by decide), hS 2 (by decide), hS 3 (by decide)]
  ring

/-- R of a word with two altered digits (R163). -/
theorem cast_coefR_of_two_errors :
    ((coefR w : Int) : ZMod 11) =
      -(errorAt v w i * errorAt v w j * (point j - point i) ^ 2 * (point i * point j)) := by
  have hS := fieldSyn_of_two_errors hv hij hsame
  rw [cast_coefR, hS 1 (by decide), hS 2 (by decide), hS 3 (by decide)]
  ring

variable (hi : errorAt v w i ≠ 0) (hj : errorAt v w j ≠ 0)

include hi hj in
/-- Two altered digits leave P other than 0, and so take the double-error branch (R164). -/
theorem doubleErrorBranch_of_two_errors : coefP w ≠ 0 ∧ DoubleErrorBranch w := by
  have := fact_prime_eleven
  have hP : coefP w ≠ 0 := by
    rw [ne_eq, coefP_eq_zero_iff, cast_coefP_of_two_errors hv hij hsame]
    exact neg_ne_zero.mpr (mul_ne_zero (mul_ne_zero hi hj)
      (pow_ne_zero 2 (sub_ne_zero.mpr (point_injective.ne hij.symm))))
  refine ⟨hP, fun hzero => hP ?_, fun hcoef => hP hcoef.1⟩
  have hS := (syndromeZero_iff w).mp hzero
  rw [coefP_eq_zero_iff, cast_coefP, hS 0 (by decide), hS 1 (by decide)]
  ring

variable {root : Nat} (hle : root ≤ 5)
  (hroot : (root : ZMod 11) = errorAt v w i * errorAt v w j * (point j - point i) ^ 3)

include hle hroot in
/-- The discriminant of two altered digits is a square (R170). -/
theorem smallerRoot_of_two_errors : SmallerRoot w root := by
  refine ⟨hle, ?_⟩
  have hmod : (root : Int) ^ 2 % 11 = discOf w % 11 := by
    rw [emod_eleven_eq_iff, cast_discOf, cast_coefP_of_two_errors hv hij hsame, cast_coefQ_of_two_errors hv hij hsame,
      cast_coefR_of_two_errors hv hij hsame]
    push_cast
    rw [hroot]
    ring
  have h0 := discOf_nonneg w
  have h11 := discOf_lt w
  omega

include hi hj hroot in
/-- The quotients of step 5b are the positions of the two altered digits (R171). -/
theorem rootPositions_of_two_errors : RootPositions w root (i.val + 1) (j.val + 1) := by
  refine ⟨by omega, by omega, (doubleErrorBranch_of_two_errors hv hij hsame hi hj).1, ?_, ?_⟩
  all_goals
    rw [emod_eleven_eq_iff]
    simp only [Int.cast_mul, Int.cast_sub, Int.cast_neg, Int.cast_natCast, Int.cast_ofNat,
      cast_coefP_of_two_errors hv hij hsame, cast_coefQ_of_two_errors hv hij hsame, hroot]
    change _ * point _ = _
    ring

/-- The magnitudes of step 5d are the changes of the two altered digits (R173). -/
theorem magnitudesAt_of_two_errors : MagnitudesAt w (i.val + 1) (j.val + 1) (magnitude v w i) (magnitude v w j) := by
  have hS := fieldSyn_of_two_errors hv hij hsame
  refine ⟨magnitude_le _ _ _, magnitude_le _ _ _, ?_, ?_⟩
  · rw [emod_eleven_eq_iff]
    simp only [Int.cast_mul, Int.cast_sub, Int.cast_natCast, cast_magnitude, cast_syn, hS 0 (by decide),
      hS 1 (by decide)]
    change (point i - point j) * _ = point i * _ - _
    ring
  · have hmod : (magnitude v w i : Int) % 11 = (syn w 0 - magnitude v w j) % 11 := by
      rw [emod_eleven_eq_iff]
      simp only [Int.cast_sub, Int.cast_natCast, cast_magnitude, cast_syn, hS 0 (by decide)]
      ring
    have hlt := magnitude_le v w i
    omega

end

/-- DECODE of a codeword with two altered digits, where the smaller root is the one that puts position i + 1 first
(R179). -/
theorem decode_two_errors (s : State) (v : Digits) (i j : Fin 10) (root : Nat) (hv : IsCodeword v)
    (hdec : s.d.AllDecimal) (hij : i ≠ j) (hsame : ∀ l, l ≠ i → l ≠ j → s.d.get l = v.get l)
    (hi : errorAt v s.d i ≠ 0) (hj : errorAt v s.d j ≠ 0) (hle : root ≤ 5)
    (hroot : (root : ZMod 11) = errorAt v s.d i * errorAt v s.d j * (point j - point i) ^ 3) :
    ∃ t, exec .decode s = .next t ∧ outcomeField t.status = DecodeEnd.double.code ∧ t.c = v ∧
      t.pos1.toNat = i.val + 1 ∧ t.pos2.toNat = j.val + 1 := by
  have hzero := hv.zeroSyndrome
  have hdi := correctedDigit_magnitude v s.d i (hv.1 i)
  have hdj := correctedDigit_magnitude v s.d j (hv.1 j)
  refine ⟨_, doubleBranchCorrectsTwoDigits s root _ _ i j hdec
    (doubleErrorBranch_of_two_errors hzero hij hsame hi hj).2 (smallerRoot_of_two_errors hzero hij hsame hle hroot)
    (rootPositions_of_two_errors hzero hij hsame hi hj hroot) hij (magnitudesAt_of_two_errors hzero hij hsame)
    (hdi ▸ hv.1 i) (hdj ▸ hv.1 j), by dsimp only; decide, Digits.ext_get _ v fun l => ?_, ofNat_toNat_of_le _ (by omega),
    ofNat_toNat_of_le _ (by omega)⟩
  dsimp only
  rw [hdi, hdj, BitVec.ofNat_toNat, BitVec.ofNat_toNat, BitVec.setWidth_eq, BitVec.setWidth_eq]
  by_cases hlj : l = j
  · rw [hlj, Digits.get_set_self]
  · rw [Digits.get_set_of_ne _ _ _ _ hlj]
    by_cases hli : l = i
    · rw [hli, Digits.get_set_self]
    · rw [Digits.get_set_of_ne _ _ _ _ hli, hsame l hli hlj]

/-- Settles O50: the discriminant is the square of e_i·e_j·(x_j - x_i)³, and the sign of its smaller root says which of the
two positions comes first. -/
theorem twoAlteredDigitsDecode : Obligations.TwoAlteredDigitsDecode := by
  intro s v i j x y hv hij hx hy hxi hyj hd
  have hdec : s.d.AllDecimal := hd ▸ Digits.forall_get_set (Digits.forall_get_set hv.1 hx) hy
  have hsame (l : Fin 10) (hli : l ≠ i) (hlj : l ≠ j) : s.d.get l = v.get l := by
    rw [hd, Digits.get_set_of_ne _ _ _ _ hlj, Digits.get_set_of_ne _ _ _ _ hli]
  have hi : errorAt v s.d i ≠ 0 := by
    rw [ne_eq, errorAt_eq_zero_iff (hv.1.canonical i) (hdec.canonical i), hd, Digits.get_set_of_ne _ _ _ _ hij,
      Digits.get_set_self]
    exact hxi.symm
  have hj : errorAt v s.d j ≠ 0 := by
    rw [ne_eq, errorAt_eq_zero_iff (hv.1.canonical j) (hdec.canonical j), hd, Digits.get_set_self]
    exact hyj.symm
  obtain ⟨r, hr | hr⟩ := exists_small_or_neg (errorAt v s.d i * errorAt v s.d j * (point j - point i) ^ 3)
  · obtain ⟨t, ht, hout, hc, h1, h2⟩ :=
      decode_two_errors s v i j r hv hdec hij hsame hi hj (Nat.le_of_lt_succ r.isLt) hr
    exact ⟨t, ht, hout, hc, .inl ⟨h1, h2⟩⟩
  · obtain ⟨t, ht, hout, hc, h1, h2⟩ :=
      decode_two_errors s v j i r hv hdec hij.symm (fun l hlj hli => hsame l hli hlj) hj hi
        (Nat.le_of_lt_succ r.isLt) (by rw [hr]; ring)
    exact ⟨t, ht, hout, hc, .inr ⟨h1, h2⟩⟩

end Sys2Proof.Machine
end
